-- ==== Sys2Proof/Word.lean ====
section
/-! DEFINITION. The bit-vector types of the machine: every value is unsigned (spec 00_scope.md section 5.1). -/

namespace Sys2Proof

/-- A byte: a general register, a timer, a memory cell, the constant `nn` (10_state.md R10, R15, R19). -/
abbrev Byte := BitVec 8

/-- A 16-bit value: an instruction word, `pc`, `I`, a call-stack slot (10_state.md R12, R13, R14). -/
abbrev Word := BitVec 16

/-- A 4-bit field: the register numbers `x`, `y`, the row count `n`, a key number (30_encoding.md R52). -/
abbrev Nibble := BitVec 4

/-- The 12-bit field `nnn` (30_encoding.md R52). -/
abbrev Addr12 := BitVec 12

/-- One row of 64 display pixels: bit `px` is the pixel in column `px` (10_state.md R16). The layout is the model's
own: the spec fixes only the view by coordinates (D23). DESIGN CHOICE, log 16, safe. -/
abbrev PixelRow := BitVec 64

end Sys2Proof
end

