-- ==== Sys2Proof/Config.lean ====
section
/-! DEFINITION. What is fixed for the machine: its sizes (00_scope.md R4) and the two parameters the spec leaves open
(00_scope.md R5), which have no body, so that nothing can be proved about their values. -/

namespace Sys2Proof.Config

/-- The address a program is loaded at, and the value of `pc` after reset (70_reset_and_hazards.md R171). -/
def programBase : Nat := 0x200

/-- The largest program: 3584 bytes (60_exceptions.md R146). -/
def maxProgram : Nat := 3584

/-- `FONT[0..79]`, the bytes reset writes to 0x000 to 0x04F. The source does not give them: a parameter
(00_scope.md R5, 70_reset_and_hazards.md R172, D14). DESIGN CHOICE, log 1, safe. -/
opaque font : Fin 80 → Byte

/-- The random byte of the `k`-th free draw, a value under no law (00_scope.md R5, 41_load_and_alu.md R102, D13).
DESIGN CHOICE, log 2, safe. -/
opaque rnd : Nat → Byte

end Sys2Proof.Config
end

