-- ==== Sys2Proof/Syntax.lean ====
section
/-! DEFINITION. The instructions: one constructor for each of the 34 rows of 30_encoding.md R56 (and of
spec/opcode_table.json). A register number is a 4-bit field all of whose values are legal (R57). -/

namespace Sys2Proof

inductive Instr where
  /-- 00E0, clear the display (43_display.md R120). -/
  | cls
  /-- 00EE, return from call (40_control_flow.md R71). -/
  | ret
  /-- 1nnn, jump (40_control_flow.md R72). -/
  | jpNnn (nnn : Addr12)
  /-- 2nnn, call (40_control_flow.md R73). -/
  | callNnn (nnn : Addr12)
  /-- 3xnn, skip if equal to constant (40_control_flow.md R74). -/
  | seVxNn (x : Nibble) (nn : Byte)
  /-- 4xnn, skip if not equal to constant (40_control_flow.md R75). -/
  | sneVxNn (x : Nibble) (nn : Byte)
  /-- 5xy0, skip if registers equal (40_control_flow.md R76). -/
  | seVxVy (x y : Nibble)
  /-- 6xnn, load constant (41_load_and_alu.md R91). -/
  | ldVxNn (x : Nibble) (nn : Byte)
  /-- 7xnn, add constant without flag (41_load_and_alu.md R92). -/
  | addVxNn (x : Nibble) (nn : Byte)
  /-- 8xy0, copy register (41_load_and_alu.md R93). -/
  | ldVxVy (x y : Nibble)
  /-- 8xy1 (41_load_and_alu.md R94). -/
  | orVxVy (x y : Nibble)
  /-- 8xy2 (41_load_and_alu.md R95). -/
  | andVxVy (x y : Nibble)
  /-- 8xy3 (41_load_and_alu.md R96). -/
  | xorVxVy (x y : Nibble)
  /-- 8xy4, add with carry out (41_load_and_alu.md R97). -/
  | addVxVy (x y : Nibble)
  /-- 8xy5, `V[x] - V[y]` (41_load_and_alu.md R98). -/
  | subVxVy (x y : Nibble)
  /-- 8xy6, shift `V[y]` right (41_load_and_alu.md R99). -/
  | shrVxVy (x y : Nibble)
  /-- 8xy7, `V[y] - V[x]` (41_load_and_alu.md R100). -/
  | subnVxVy (x y : Nibble)
  /-- 8xyE, shift `V[y]` left (41_load_and_alu.md R101). -/
  | shlVxVy (x y : Nibble)
  /-- 9xy0, skip if registers differ (40_control_flow.md R77). -/
  | sneVxVy (x y : Nibble)
  /-- Annn, load index (42_index_and_memory.md R110). -/
  | ldINnn (nnn : Addr12)
  /-- Bnnn, jump with offset `V[0]` (40_control_flow.md R78). -/
  | jpV0Nnn (nnn : Addr12)
  /-- Cxnn, masked random byte (41_load_and_alu.md R102). -/
  | rndVxNn (x : Nibble) (nn : Byte)
  /-- Dxyn, draw a sprite (43_display.md R121). -/
  | drwVxVyN (x y n : Nibble)
  /-- Ex9E, skip if key pressed (44_keys_and_timers.md R130). -/
  | skpVx (x : Nibble)
  /-- ExA1, skip if key not pressed (44_keys_and_timers.md R131). -/
  | sknpVx (x : Nibble)
  /-- Fx07, read the delay timer (44_keys_and_timers.md R133). -/
  | ldVxDt (x : Nibble)
  /-- Fx0A, wait for a key (44_keys_and_timers.md R132). -/
  | ldVxK (x : Nibble)
  /-- Fx15, set the delay timer (44_keys_and_timers.md R134). -/
  | ldDtVx (x : Nibble)
  /-- Fx18, set the sound timer (44_keys_and_timers.md R135). -/
  | ldStVx (x : Nibble)
  /-- Fx1E, add register to index (42_index_and_memory.md R111). -/
  | addIVx (x : Nibble)
  /-- Fx29, address of a font glyph (42_index_and_memory.md R112). -/
  | ldFVx (x : Nibble)
  /-- Fx33, store the decimal digits (42_index_and_memory.md R113). -/
  | ldBVx (x : Nibble)
  /-- Fx55, store `V[0]` to `V[x]` (42_index_and_memory.md R114). -/
  | ldMemVx (x : Nibble)
  /-- Fx65, load `V[0]` to `V[x]` (42_index_and_memory.md R115). -/
  | ldVxMem (x : Nibble)
  deriving DecidableEq, Repr

end Sys2Proof
end

