-- ==== Sys2Proof/WellFormed.lean ====
section
/-! DEFINITION. Which operand numbers make an instruction. An assembler line gives numbers, and `nnn`, `nn`, `n` "must
fit 12, 8 and 4 bits", a register is `V0` to `VF` (30_encoding.md R60). `Instr` carries its operands as bit vectors of
exactly those widths, so an instruction that exists is well formed; what can be ill formed is a line of numbers.
`Line` is such a line, one constructor per format of R51. -/

namespace Sys2Proof

/-- The operand numbers of a line, by format (30_encoding.md R51). -/
inductive Line where
  | formatOp
  | formatNnn (nnn : Nat)
  | formatXnn (x nn : Nat)
  | formatXy (x y : Nat)
  | formatXyn (x y n : Nat)
  | formatX (x : Nat)
  deriving DecidableEq, Repr

/-- Every operand number fits its field (30_encoding.md R52, R57, R60). -/
abbrev Line.WellFormed : Line → Prop
  | .formatOp => True
  | .formatNnn a => a < 2 ^ 12
  | .formatXnn x a => x < 2 ^ 4 ∧ a < 2 ^ 8
  | .formatXy x y => x < 2 ^ 4 ∧ y < 2 ^ 4
  | .formatXyn x y n => x < 2 ^ 4 ∧ y < 2 ^ 4 ∧ n < 2 ^ 4
  | .formatX x => x < 2 ^ 4

/-- The operand numbers an instruction was written with. -/
def Instr.line : Instr → Line
  | .cls => .formatOp
  | .ret => .formatOp
  | .jpNnn a => .formatNnn a.toNat
  | .callNnn a => .formatNnn a.toNat
  | .seVxNn x a => .formatXnn x.toNat a.toNat
  | .sneVxNn x a => .formatXnn x.toNat a.toNat
  | .seVxVy x y => .formatXy x.toNat y.toNat
  | .ldVxNn x a => .formatXnn x.toNat a.toNat
  | .addVxNn x a => .formatXnn x.toNat a.toNat
  | .ldVxVy x y => .formatXy x.toNat y.toNat
  | .orVxVy x y => .formatXy x.toNat y.toNat
  | .andVxVy x y => .formatXy x.toNat y.toNat
  | .xorVxVy x y => .formatXy x.toNat y.toNat
  | .addVxVy x y => .formatXy x.toNat y.toNat
  | .subVxVy x y => .formatXy x.toNat y.toNat
  | .shrVxVy x y => .formatXy x.toNat y.toNat
  | .subnVxVy x y => .formatXy x.toNat y.toNat
  | .shlVxVy x y => .formatXy x.toNat y.toNat
  | .sneVxVy x y => .formatXy x.toNat y.toNat
  | .ldINnn a => .formatNnn a.toNat
  | .jpV0Nnn a => .formatNnn a.toNat
  | .rndVxNn x a => .formatXnn x.toNat a.toNat
  | .drwVxVyN x y n => .formatXyn x.toNat y.toNat n.toNat
  | .skpVx x => .formatX x.toNat
  | .sknpVx x => .formatX x.toNat
  | .ldVxDt x => .formatX x.toNat
  | .ldVxK x => .formatX x.toNat
  | .ldDtVx x => .formatX x.toNat
  | .ldStVx x => .formatX x.toNat
  | .addIVx x => .formatX x.toNat
  | .ldFVx x => .formatX x.toNat
  | .ldBVx x => .formatX x.toNat
  | .ldMemVx x => .formatX x.toNat
  | .ldVxMem x => .formatX x.toNat

/-- An instruction is well formed: the numbers of its line fit. (It always is: Laws/Decode.lean, `wellFormed_all`.) -/
abbrev Instr.WellFormed (i : Instr) : Prop := i.line.WellFormed

end Sys2Proof
end

