-- ==== Sys2Proof/Decode.lean ====
section
/-! DEFINITION. The decoder of 30_encoding.md R53, total on any word and on any bytes, and the encoder written from the
same table (R51, R56). Decoding reads nothing but the word. -/

namespace Sys2Proof

/-! The fields of an instruction word (30_encoding.md R52). -/

/-- `opcode[15:12]`, the family. -/
def fieldOp (w : Word) : Nibble := w.extractLsb' 12 4
/-- `opcode[11:8]`. -/
def fieldX (w : Word) : Nibble := w.extractLsb' 8 4
/-- `opcode[7:4]`. -/
def fieldY (w : Word) : Nibble := w.extractLsb' 4 4
/-- `opcode[3:0]`: the row count `n`, or the low nibble that selects within a family. -/
def fieldN (w : Word) : Nibble := w.extractLsb' 0 4
/-- `opcode[7:0]`: the constant `nn`, or the low byte that selects within a family. -/
def fieldNn (w : Word) : Byte := w.extractLsb' 0 8
/-- `opcode[11:0]`. -/
def fieldNnn (w : Word) : Addr12 := w.extractLsb' 0 12

/-- Family 0: the whole word is matched (30_encoding.md R53, R54). -/
def decodeFamily0 (w : Word) : Option Instr :=
  if w = 0x00E0 then some .cls
  else if w = 0x00EE then some .ret
  else none

/-- Family 8: the low nibble selects (30_encoding.md R53). -/
def decodeFamily8 (x y sub4 : Nibble) : Option Instr :=
  if sub4 = 0x0 then some (.ldVxVy x y)
  else if sub4 = 0x1 then some (.orVxVy x y)
  else if sub4 = 0x2 then some (.andVxVy x y)
  else if sub4 = 0x3 then some (.xorVxVy x y)
  else if sub4 = 0x4 then some (.addVxVy x y)
  else if sub4 = 0x5 then some (.subVxVy x y)
  else if sub4 = 0x6 then some (.shrVxVy x y)
  else if sub4 = 0x7 then some (.subnVxVy x y)
  else if sub4 = 0xE then some (.shlVxVy x y)
  else none

/-- Family E: the low byte selects (30_encoding.md R53). -/
def decodeFamilyE (x : Nibble) (sub8 : Byte) : Option Instr :=
  if sub8 = 0x9E then some (.skpVx x)
  else if sub8 = 0xA1 then some (.sknpVx x)
  else none

/-- Family F: the low byte selects (30_encoding.md R53). -/
def decodeFamilyF (x : Nibble) (sub8 : Byte) : Option Instr :=
  if sub8 = 0x07 then some (.ldVxDt x)
  else if sub8 = 0x0A then some (.ldVxK x)
  else if sub8 = 0x15 then some (.ldDtVx x)
  else if sub8 = 0x18 then some (.ldStVx x)
  else if sub8 = 0x1E then some (.addIVx x)
  else if sub8 = 0x29 then some (.ldFVx x)
  else if sub8 = 0x33 then some (.ldBVx x)
  else if sub8 = 0x55 then some (.ldMemVx x)
  else if sub8 = 0x65 then some (.ldVxMem x)
  else none

/-- `Decode(opcode)`: one of the 34 instructions, or none for an unrecognized word (30_encoding.md R53). Every printed
digit of a pattern is matched (R54, the spec's decision D9). DESIGN CHOICE (the spec's own), log 8, safe. -/
def decodeWord (w : Word) : Option Instr :=
  if fieldOp w = 0x0 then decodeFamily0 w
  else if fieldOp w = 0x1 then some (.jpNnn (fieldNnn w))
  else if fieldOp w = 0x2 then some (.callNnn (fieldNnn w))
  else if fieldOp w = 0x3 then some (.seVxNn (fieldX w) (fieldNn w))
  else if fieldOp w = 0x4 then some (.sneVxNn (fieldX w) (fieldNn w))
  else if fieldOp w = 0x5 then if fieldN w = 0x0 then some (.seVxVy (fieldX w) (fieldY w)) else none
  else if fieldOp w = 0x6 then some (.ldVxNn (fieldX w) (fieldNn w))
  else if fieldOp w = 0x7 then some (.addVxNn (fieldX w) (fieldNn w))
  else if fieldOp w = 0x8 then decodeFamily8 (fieldX w) (fieldY w) (fieldN w)
  else if fieldOp w = 0x9 then if fieldN w = 0x0 then some (.sneVxVy (fieldX w) (fieldY w)) else none
  else if fieldOp w = 0xA then some (.ldINnn (fieldNnn w))
  else if fieldOp w = 0xB then some (.jpV0Nnn (fieldNnn w))
  else if fieldOp w = 0xC then some (.rndVxNn (fieldX w) (fieldNn w))
  else if fieldOp w = 0xD then some (.drwVxVyN (fieldX w) (fieldY w) (fieldN w))
  else if fieldOp w = 0xE then decodeFamilyE (fieldX w) (fieldNn w)
  else decodeFamilyF (fieldX w) (fieldNn w)

/-- Why bytes are not an instruction. -/
inductive DecodeReject where
  /-- The word is one of the 21582 that no row selects (30_encoding.md R58). -/
  | unrecognized (opcode : Word)
  /-- Fewer than the two bytes every instruction has (30_encoding.md R51). -/
  | truncated
  deriving DecidableEq, Repr

/-- Decoding a byte sequence: the first byte is the high half of the word (20_memory.md R33); the instruction and the
bytes after it, or the name of the rejection. -/
def decode : List Byte → Except DecodeReject (Instr × List Byte)
  | hi :: lo :: rest =>
    match decodeWord (hi ++ lo) with
    | some i => .ok (i, rest)
    | none => .error (.unrecognized (hi ++ lo))
  | _ => .error .truncated

/-! The encoder, format by format (30_encoding.md R51). -/

/-- Format `NNN`. -/
def encodeNnn (op : Nibble) (nnn : Addr12) : Word := op ++ nnn
/-- Format `XNN`, and format `X` with its fixed low byte. -/
def encodeXNn (op x : Nibble) (nn : Byte) : Word := op ++ x ++ nn
/-- Format `XYN`, and format `XY` with its fixed low nibble. -/
def encodeXYN (op x y n : Nibble) : Word := op ++ x ++ y ++ n

/-- The word of an instruction (30_encoding.md R56). -/
def encode : Instr → Word
  | .cls => 0x00E0
  | .ret => 0x00EE
  | .jpNnn nnn => encodeNnn 0x1 nnn
  | .callNnn nnn => encodeNnn 0x2 nnn
  | .seVxNn x nn => encodeXNn 0x3 x nn
  | .sneVxNn x nn => encodeXNn 0x4 x nn
  | .seVxVy x y => encodeXYN 0x5 x y 0x0
  | .ldVxNn x nn => encodeXNn 0x6 x nn
  | .addVxNn x nn => encodeXNn 0x7 x nn
  | .ldVxVy x y => encodeXYN 0x8 x y 0x0
  | .orVxVy x y => encodeXYN 0x8 x y 0x1
  | .andVxVy x y => encodeXYN 0x8 x y 0x2
  | .xorVxVy x y => encodeXYN 0x8 x y 0x3
  | .addVxVy x y => encodeXYN 0x8 x y 0x4
  | .subVxVy x y => encodeXYN 0x8 x y 0x5
  | .shrVxVy x y => encodeXYN 0x8 x y 0x6
  | .subnVxVy x y => encodeXYN 0x8 x y 0x7
  | .shlVxVy x y => encodeXYN 0x8 x y 0xE
  | .sneVxVy x y => encodeXYN 0x9 x y 0x0
  | .ldINnn nnn => encodeNnn 0xA nnn
  | .jpV0Nnn nnn => encodeNnn 0xB nnn
  | .rndVxNn x nn => encodeXNn 0xC x nn
  | .drwVxVyN x y n => encodeXYN 0xD x y n
  | .skpVx x => encodeXNn 0xE x 0x9E
  | .sknpVx x => encodeXNn 0xE x 0xA1
  | .ldVxDt x => encodeXNn 0xF x 0x07
  | .ldVxK x => encodeXNn 0xF x 0x0A
  | .ldDtVx x => encodeXNn 0xF x 0x15
  | .ldStVx x => encodeXNn 0xF x 0x18
  | .addIVx x => encodeXNn 0xF x 0x1E
  | .ldFVx x => encodeXNn 0xF x 0x29
  | .ldBVx x => encodeXNn 0xF x 0x33
  | .ldMemVx x => encodeXNn 0xF x 0x55
  | .ldVxMem x => encodeXNn 0xF x 0x65

/-- The two bytes of an instruction, the high half first (20_memory.md R33). -/
def encodeBytes (i : Instr) : List Byte := [(encode i).extractLsb' 8 8, (encode i).extractLsb' 0 8]

/-- The row of 30_encoding.md R56 an instruction belongs to: its `match` and its `mask`. -/
def rowOf : Instr → Word × Word
  | .cls => (0x00E0, 0xFFFF)
  | .ret => (0x00EE, 0xFFFF)
  | .jpNnn _ => (0x1000, 0xF000)
  | .callNnn _ => (0x2000, 0xF000)
  | .seVxNn _ _ => (0x3000, 0xF000)
  | .sneVxNn _ _ => (0x4000, 0xF000)
  | .seVxVy _ _ => (0x5000, 0xF00F)
  | .ldVxNn _ _ => (0x6000, 0xF000)
  | .addVxNn _ _ => (0x7000, 0xF000)
  | .ldVxVy _ _ => (0x8000, 0xF00F)
  | .orVxVy _ _ => (0x8001, 0xF00F)
  | .andVxVy _ _ => (0x8002, 0xF00F)
  | .xorVxVy _ _ => (0x8003, 0xF00F)
  | .addVxVy _ _ => (0x8004, 0xF00F)
  | .subVxVy _ _ => (0x8005, 0xF00F)
  | .shrVxVy _ _ => (0x8006, 0xF00F)
  | .subnVxVy _ _ => (0x8007, 0xF00F)
  | .shlVxVy _ _ => (0x800E, 0xF00F)
  | .sneVxVy _ _ => (0x9000, 0xF00F)
  | .ldINnn _ => (0xA000, 0xF000)
  | .jpV0Nnn _ => (0xB000, 0xF000)
  | .rndVxNn _ _ => (0xC000, 0xF000)
  | .drwVxVyN _ _ _ => (0xD000, 0xF000)
  | .skpVx _ => (0xE09E, 0xF0FF)
  | .sknpVx _ => (0xE0A1, 0xF0FF)
  | .ldVxDt _ => (0xF007, 0xF0FF)
  | .ldVxK _ => (0xF00A, 0xF0FF)
  | .ldDtVx _ => (0xF015, 0xF0FF)
  | .ldStVx _ => (0xF018, 0xF0FF)
  | .addIVx _ => (0xF01E, 0xF0FF)
  | .ldFVx _ => (0xF029, 0xF0FF)
  | .ldBVx _ => (0xF033, 0xF0FF)
  | .ldMemVx _ => (0xF055, 0xF0FF)
  | .ldVxMem _ => (0xF065, 0xF0FF)

/-- The 34 rows (`match`, `mask`) in the order of 30_encoding.md R56. -/
def opcodeRows : List (Word × Word) :=
  [(0x00E0, 0xFFFF), (0x00EE, 0xFFFF), (0x1000, 0xF000), (0x2000, 0xF000), (0x3000, 0xF000), (0x4000, 0xF000),
   (0x5000, 0xF00F), (0x6000, 0xF000), (0x7000, 0xF000), (0x8000, 0xF00F), (0x8001, 0xF00F), (0x8002, 0xF00F),
   (0x8003, 0xF00F), (0x8004, 0xF00F), (0x8005, 0xF00F), (0x8006, 0xF00F), (0x8007, 0xF00F)] ++
  [(0x800E, 0xF00F), (0x9000, 0xF00F), (0xA000, 0xF000), (0xB000, 0xF000), (0xC000, 0xF000), (0xD000, 0xF000),
   (0xE09E, 0xF0FF), (0xE0A1, 0xF0FF), (0xF007, 0xF0FF), (0xF00A, 0xF0FF), (0xF015, 0xF0FF), (0xF018, 0xF0FF),
   (0xF01E, 0xF0FF), (0xF029, 0xF0FF), (0xF033, 0xF0FF), (0xF055, 0xF0FF), (0xF065, 0xF0FF)]

/-- A row selects a word: `(w AND mask) == match` (30_encoding.md R56). -/
abbrev rowSelects (row : Word × Word) (w : Word) : Prop := w &&& row.2 = row.1

/-- The instruction the decoder reads from a table word: `nbits` bits of `w`, the bits above them 0, laid out as the
hardware stores them (20_memory.md R33). An instruction has one word, so bits above 15 belong to none (log 21). -/
def decodeTableWord (nbits w : Nat) : Option Instr :=
  let word : Word := BitVec.ofNat 16 (w % 2 ^ nbits)
  match decode [word.extractLsb' 8 8, word.extractLsb' 0 8] with
  | .ok (i, _) => some i
  | .error _ => none

end Sys2Proof
end

