-- ==== Sys2Proof/Machine/State.lean ====
section
/-! DEFINITION. The state of the machine, exactly the elements of 10_state.md R10 to R19 (R20), and two fields of the
model's own that stand for the random input of 00_scope.md R5; the faults of 60_exceptions.md R140; the state after
reset (10_state.md R21). -/

namespace Sys2Proof.Machine

/-- Memory: (address, byte) pairs, addresses rising, no entry equal to what an unlisted address reads as
(`Memory.wf`, `Memory.unlisted` in Machine/Ops.lean). DESIGN CHOICE, log 17, safe. -/
abbrev Memory := List Host.Cell

/-- The display buffer: 32 rows of 64 pixels (10_state.md R16). Its layout is the model's (D23, log 16). -/
abbrev Display := Vector PixelRow 32

structure State where
  /-- `V[0]` to `V[15]`; `V[0xF]` is VF, the only flag a program can read (10_state.md R10, R11). -/
  v : Vector Byte 16
  /-- The program counter (10_state.md R12). -/
  pc : Word
  /-- The index register `I`, 16 bits (10_state.md R13). -/
  i : Word
  /-- The stack pointer, 0 to 16: the number of return addresses held (10_state.md R14, D6, log 5). -/
  sp : Fin 17
  /-- `stack[0]` to `stack[15]` (10_state.md R14). -/
  stack : Vector Word 16
  /-- The delay timer `DT` (10_state.md R15). -/
  dt : Byte
  /-- The sound timer `ST` (10_state.md R15). -/
  st : Byte
  /-- The display buffer (10_state.md R16). -/
  disp : Display
  /-- The display dirty flag (10_state.md R17). -/
  dirty : Bool
  /-- The key matrix, `true` meaning pressed (10_state.md R18). -/
  key : Vector Bool 16
  /-- The 4096 bytes (10_state.md R19). -/
  mem : Memory
  /-- MODEL'S OWN: random bytes the host has offered for the Cxnn steps to come, first one first (00_scope.md R5: `rnd`
  is an input of the step, not state). DESIGN CHOICE, log 2. -/
  rndIn : List Byte
  /-- MODEL'S OWN: how many free random bytes have been drawn (00_scope.md R5). DESIGN CHOICE, log 2. -/
  draws : Nat
  deriving DecidableEq, Repr

/-- The faults of 60_exceptions.md R140, each with the information it reports. A fault changes nothing (R141). The
opcode is the word of the faulting instruction, the pc the full 16-bit program counter (R142). -/
inductive Fault where
  /-- Raised by a step whose fetched word is none of the 34 instructions (60_exceptions.md R142). The spec's own
  behaviour of the machine; matching every printed digit of a pattern is its decision D9. Safe (log 8, 9). -/
  | unknownInstruction (opcode pc : Word)
  /-- Raised by 2nnn when 16 return addresses are held (60_exceptions.md R143). The spec's decision D4. Safe (log 5). -/
  | stackOverflow (opcode pc : Word)
  /-- Raised by 00EE when none is held (60_exceptions.md R144). The spec's decision D5. Safe (log 5). -/
  | stackUnderflow (opcode pc : Word)
  /-- Raised by Ex9E and ExA1 when `V[x]` is above 15 (60_exceptions.md R145). The spec's decision D7. Safe (log 6). -/
  | keyIndexOutOfRange (opcode pc : Word) (k : Byte)
  /-- Raised by the transaction LoadProgram, never by a step, on more than 3584 bytes (60_exceptions.md R146). The
  spec's own behaviour of the machine. Safe (log 9). -/
  | capacityError (len : Nat)
  deriving DecidableEq, Repr

/-- Reasons a step has no meaning. -/
inductive Refusal where
  /-- Raised by an arm of `exec` whose instruction has no meaning yet; no arm does. Safe: it only stops. -/
  | notModelled (mnemonic : String)
  deriving DecidableEq, Repr

/-- What a step answers: the next state (the spec's `Ok`), a fault, or a refusal. -/
abbrev Result := Host.Outcome State Fault Refusal

/-- The state after `Reset`, the table of 10_state.md R21. Memory lists nothing: every address reads as its reset
contents (`Memory.unlisted`). `dirty` is 1 by R21 (the spec's decision D12, log 10). The two fields of the model's own
start empty: no byte offered, none drawn (DESIGN CHOICE, log 2). -/
def State.reset : State where
  v := Vector.replicate 16 0
  pc := 0x0200
  i := 0
  sp := 0
  stack := Vector.replicate 16 0
  dt := 0
  st := 0
  disp := Vector.replicate 32 0
  dirty := true
  key := Vector.replicate 16 false
  mem := []
  rndIn := []
  draws := 0

end Sys2Proof.Machine
end

