-- ==== Sys2Proof/Machine/Ops.lean ====
section
/-! DEFINITION. The named operations over registers, stack, memory, display, keys and the random input, through which
every meaning reads and writes the state, and the one way a fault is raised. -/

namespace Sys2Proof.Machine

/-! ### Memory -/

/-- What an address reads as when nothing lists it: its contents after reset, `FONT[a]` at 0x000 to 0x04F and 0 above
(10_state.md R21). The font bytes are a parameter (log 1). -/
def Memory.unlisted (a : Nat) : Byte :=
  if h : a < 80 then Config.font ⟨a, h⟩ else 0

/-- The byte at address `a`. -/
def Memory.read : Memory → Nat → Byte
  | [], a => Memory.unlisted a
  | c :: m, a => if c.1 = a then c.2 else Memory.read m a

/-- The memory with address `a` unlisted. -/
def Memory.without (m : Memory) (a : Nat) : Memory := m.filter (fun c => c.1 ≠ a)

/-- The memory with (`a`, `v`) listed before the first larger address. -/
def Memory.place : Memory → Nat → Byte → Memory
  | [], a, v => [(a, v)]
  | c :: m, a, v => if a < c.1 then (a, v) :: c :: m else c :: Memory.place m a v

/-- `mem[a] <- v`, keeping the canonical form: a byte equal to what the unlisted address reads as is not listed. -/
def Memory.write (m : Memory) (a : Nat) (v : Byte) : Memory :=
  if v = Memory.unlisted a then Memory.without m a else Memory.place (Memory.without m a) a v

/-- The canonical form: addresses strictly rising, all below 4096, no entry equal to what an unlisted address reads
as. DESIGN CHOICE, log 17, safe. -/
abbrev Memory.wf (m : Memory) : Prop :=
  m.Pairwise (fun c d => c.1 < d.1) ∧ ∀ c ∈ m, c.1 < 4096 ∧ c.2 ≠ Memory.unlisted c.1

/-- `MemRead(addr, 1)`: the address is taken modulo 4096 (00_scope.md section 5.3, 20_memory.md R31). -/
def State.memRead (s : State) (addr : Nat) : Byte := Memory.read s.mem (addr % 4096)

/-- `MemWrite(addr, 1, v)`: the address is taken modulo 4096 (00_scope.md section 5.3, 20_memory.md R31). No address
is protected (20_memory.md R36; the spec's decision D16, log 13). -/
def State.memWrite (s : State) (addr : Nat) (b : Byte) : State :=
  { s with mem := Memory.write s.mem (addr % 4096) b }

/-- Consecutive bytes written from `addr` up, the first byte at `addr`, each address modulo 4096. -/
def Memory.writeAll (m : Memory) (addr : Nat) : List Byte → Memory
  | [] => m
  | b :: bs => Memory.writeAll (Memory.write m (addr % 4096) b) (addr + 1) bs

/-- `MemWrite` of consecutive bytes, ascending (20_memory.md R34). -/
def State.memWriteAll (s : State) (addr : Nat) (bs : List Byte) : State :=
  { s with mem := Memory.writeAll s.mem addr bs }

/-- `MemRead(pc, 2)`: the instruction word at `pc`, big-endian, each byte's address modulo 4096
(20_memory.md R31, R33, R35). -/
def State.fetchWord (s : State) : Word := s.memRead s.pc.toNat ++ s.memRead (s.pc.toNat + 1)

/-! ### Registers -/

/-- `V[x]` (10_state.md R10). -/
def State.getV (s : State) (x : Nibble) : Byte := s.v[x.toNat]'x.isLt

/-- `V[x] <- b` (10_state.md R10). -/
def State.setV (s : State) (x : Nibble) (b : Byte) : State := { s with v := s.v.set x.toNat b x.isLt }

/-- `pc <- t`. -/
def State.setPc (s : State) (t : Word) : State := { s with pc := t }

/-- `pc <- (pc + 2) mod 2^16` (40_control_flow.md R70). The wrap is the spec's decision D2. DESIGN CHOICE (the spec's
own), log 3, unsafe. -/
def State.advance (s : State) : State := s.setPc (s.pc + 2)

/-- `pc <- (pc + 4) mod 2^16` if the condition holds, `(pc + 2) mod 2^16` otherwise (40_control_flow.md R70; the wrap
is D2, log 3). -/
def State.skipIf (s : State) (c : Bool) : State := s.setPc (if c then s.pc + 4 else s.pc + 2)

/-- `I <- t` (10_state.md R13). -/
def State.setI (s : State) (t : Word) : State := { s with i := t }

/-- `DT <- b` (10_state.md R15). -/
def State.setDt (s : State) (b : Byte) : State := { s with dt := b }

/-- `ST <- b` (10_state.md R15). -/
def State.setSt (s : State) (b : Byte) : State := { s with st := b }

/-! ### The call stack (10_state.md R14) -/

/-- `stack[sp] <- r; sp <- sp + 1`, or nothing when 16 return addresses are held (40_control_flow.md R73). -/
def State.push (s : State) (r : Word) : Option State :=
  if h : s.sp.val < 16 then
    some { s with stack := s.stack.set s.sp.val r h, sp := ⟨s.sp.val + 1, by omega⟩ }
  else none

/-- The address on top, with `sp <- sp - 1`, or nothing when none is held. The slot keeps its value
(40_control_flow.md R71). -/
def State.pop (s : State) : Option (Word × State) :=
  if h : 0 < s.sp.val then
    have := s.sp.isLt
    some (s.stack[s.sp.val - 1]'(by omega), { s with sp := ⟨s.sp.val - 1, by omega⟩ })
  else none

/-! ### The display (10_state.md R16, R17) -/

/-- `disp[px][py]`. -/
def Display.pixel (d : Display) (px : Fin 64) (py : Fin 32) : Bool := (d[py.val]'py.isLt).getLsbD px.val

/-- `disp[px][py] <- disp[px][py] XOR 1`. -/
def Display.flip (d : Display) (px : Fin 64) (py : Fin 32) : Display :=
  d.set py.val ((d[py.val]'py.isLt) ^^^ BitVec.twoPow 64 px.val) py.isLt

/-- Every pixel 0. -/
def Display.blank : Display := Vector.replicate 32 0

/-- `disp[px][py]` of a state. -/
def State.pixel (s : State) (px : Fin 64) (py : Fin 32) : Bool := Display.pixel s.disp px py

/-- The display replaced and marked dirty, as both display instructions do in every execution (10_state.md R17; that no
pixel need change is the spec's decision D12). DESIGN CHOICE (the spec's own), log 10, unsafe. -/
def State.setDisplay (s : State) (d : Display) : State := { s with disp := d, dirty := true }

/-! ### Keys (10_state.md R18) -/

/-- `key[k] == 1`. -/
def State.keyDown (s : State) (k : Nibble) : Bool := s.key[k.toNat]'k.isLt

/-- `key[k] <- b`, which only the host does (60_exceptions.md R163). -/
def State.setKey (s : State) (k : Nibble) (b : Bool) : State := { s with key := s.key.set k.toNat b k.isLt }

/-- The 16 key numbers in ascending order. -/
def keyNumbers : List Nibble := (List.range 16).map (BitVec.ofNat 4)

/-- The smallest pressed key, if any is pressed (44_keys_and_timers.md R132). -/
def State.firstKey (s : State) : Option Nibble := keyNumbers.find? s.keyDown

/-! ### The random input (00_scope.md R5) -/

/-- The random byte of this step: the one the host has offered, or else a free value. DESIGN CHOICE, log 2, safe. -/
def State.rnd (s : State) : Byte :=
  match s.rndIn with
  | r :: _ => r
  | [] => Config.rnd s.draws

/-- The state once that byte is used, so that the next Cxnn takes a fresh one. -/
def State.rndUsed (s : State) : State :=
  match s.rndIn with
  | _ :: rest => { s with rndIn := rest }
  | [] => { s with draws := s.draws + 1 }

/-! ### Faults -/

/-- `raise <Fault>(info)`: the step ends with the fault as its result and no state element changes. There is no trap
entry, no saved pc and no handler (60_exceptions.md R141, R150), and so no return from one (R151). The fault outcome
carries no state: the caller keeps the state it had. DEDUCED, log 9, safe. -/
def raise (f : Fault) : Result := .fault f

end Sys2Proof.Machine
end

