-- ==== Sys2Proof/Machine/Flags.lean ====
section
/-! DEFINITION. The six flag computations (10_state.md R11) and the order in which a flag and a result are written
(00_scope.md R7, 41_load_and_alu.md R103). Each operand is an unsigned 8-bit value (R90). -/

namespace Sys2Proof.Machine

/-- VF as an 8-bit register holds 1 or 0. -/
def flagByte (c : Bool) : Byte := if c then 1 else 0

/-- 8xy4: 1 if `a + b > 255` (41_load_and_alu.md R97). -/
def carryFlag (a b : Byte) : Byte := flagByte (decide (a.toNat + b.toNat > 255))

/-- 8xy5: 1 if `a > b`, strictly (41_load_and_alu.md R98). The formula is followed against its label "no-borrow"
(90_conflicts.md C6). DESIGN CHOICE (the spec's own), log 12, unsafe. -/
def greaterFlag (a b : Byte) : Byte := flagByte (decide (a.toNat > b.toNat))

/-- 8xy7: 1 if `b >= a`, not strictly (41_load_and_alu.md R100). -/
def notLessFlag (a b : Byte) : Byte := flagByte (decide (b.toNat ≥ a.toNat))

/-- 8xy6: `b AND 1`, the bit shifted out at the right (41_load_and_alu.md R99). -/
def lowBitFlag (b : Byte) : Byte := b &&& 1

/-- 8xyE: `(b AND 0x80) >> 7`, the bit shifted out at the left (41_load_and_alu.md R101). -/
def highBitFlag (b : Byte) : Byte := (b &&& 0x80) >>> 7

/-- Dxyn: 1 if the draw turned off a pixel (43_display.md R121). -/
def collisionFlag (hit : Bool) : Byte := flagByte hit

/-- The register that holds the flag: VF. -/
def vf : Nibble := 0xF#4

/-- The flag is written first and the result second, so the result stays when `x` is 0xF (41_load_and_alu.md R103).
That both were computed from the values before the step is the spec's decision D8. DESIGN CHOICE (the spec's own),
log 7, unsafe. -/
def State.setFlagThenV (s : State) (flag : Byte) (x : Nibble) (result : Byte) : State :=
  (s.setV vf flag).setV x result

end Sys2Proof.Machine
end

