-- ==== Sys2Proof/Machine/Alu.lean ====
section
/-! DEFINITION. Register loads and the ALU (41_load_and_alu.md R90 to R103). Results wrap modulo 256 (R90). -/

namespace Sys2Proof.Machine

/-- 6xnn (41_load_and_alu.md R91). -/
def execLdVxNn (x : Nibble) (nn : Byte) (s : State) : Result := .next (s.setV x nn).advance

/-- 7xnn (41_load_and_alu.md R92): VF is not written as a flag (90_conflicts.md C5). -/
def execAddVxNn (x : Nibble) (nn : Byte) (s : State) : Result := .next (s.setV x (s.getV x + nn)).advance

/-- 8xy0 (41_load_and_alu.md R93). -/
def execLdVxVy (x y : Nibble) (s : State) : Result := .next (s.setV x (s.getV y)).advance

/-- 8xy1 (41_load_and_alu.md R94). -/
def execOrVxVy (x y : Nibble) (s : State) : Result := .next (s.setV x (s.getV x ||| s.getV y)).advance

/-- 8xy2 (41_load_and_alu.md R95). -/
def execAndVxVy (x y : Nibble) (s : State) : Result := .next (s.setV x (s.getV x &&& s.getV y)).advance

/-- 8xy3 (41_load_and_alu.md R96). -/
def execXorVxVy (x y : Nibble) (s : State) : Result := .next (s.setV x (s.getV x ^^^ s.getV y)).advance

/-- 8xy4 (41_load_and_alu.md R97). -/
def execAddVxVy (x y : Nibble) (s : State) : Result :=
  .next (s.setFlagThenV (carryFlag (s.getV x) (s.getV y)) x (s.getV x + s.getV y)).advance

/-- 8xy5 (41_load_and_alu.md R98). -/
def execSubVxVy (x y : Nibble) (s : State) : Result :=
  .next (s.setFlagThenV (greaterFlag (s.getV x) (s.getV y)) x (s.getV x - s.getV y)).advance

/-- 8xy6 (41_load_and_alu.md R99): the source is `V[y]`. -/
def execShrVxVy (x y : Nibble) (s : State) : Result :=
  .next (s.setFlagThenV (lowBitFlag (s.getV y)) x (s.getV y >>> 1)).advance

/-- 8xy7 (41_load_and_alu.md R100). -/
def execSubnVxVy (x y : Nibble) (s : State) : Result :=
  .next (s.setFlagThenV (notLessFlag (s.getV x) (s.getV y)) x (s.getV y - s.getV x)).advance

/-- 8xyE (41_load_and_alu.md R101): the source is `V[y]`. -/
def execShlVxVy (x y : Nibble) (s : State) : Result :=
  .next (s.setFlagThenV (highBitFlag (s.getV y)) x (s.getV y <<< 1)).advance

/-- Cxnn (41_load_and_alu.md R102): the random byte is a free value (D13, log 2). -/
def execRndVxNn (x : Nibble) (nn : Byte) (s : State) : Result := .next (s.rndUsed.setV x (s.rnd &&& nn)).advance

end Sys2Proof.Machine
end

