-- ==== Sys2Proof/Machine/Operands.lean ====
section
/-! DEFINITION. The operand forms: the 12-bit constant, the base register with an offset (42_index_and_memory.md R116),
the register block `V[0]` to `V[x]`, and the coordinates of a sprite (43_display.md R121). -/

namespace Sys2Proof.Machine

/-- `nnn` zero-extended to 16 bits (30_encoding.md R52). -/
def wordOfNnn (nnn : Addr12) : Word := nnn.setWidth 16

/-- `I + i`, formed without truncation; `memRead` and `memWrite` take it modulo 4096 (42_index_and_memory.md R116). -/
def State.ea (s : State) (i : Nat) : Nat := s.i.toNat + i

/-- The numbers of the registers `V[0]` to `V[x]`, ascending (42_index_and_memory.md R114, R115). -/
def blockNumbers (x : Nibble) : List Nat := List.range (x.toNat + 1)

/-- The values of `V[0]` to `V[x]`, ascending (42_index_and_memory.md R114). -/
def State.blockValues (s : State) (x : Nibble) : List Byte :=
  (blockNumbers x).map (fun i => s.getV (BitVec.ofNat 4 i))

/-- The x-origin of a sprite: `V[x] mod 64` (43_display.md R121). -/
def State.originX (s : State) (x : Nibble) : Nat := (s.getV x).toNat % 64

/-- The y-origin of a sprite: `V[y] mod 32` (43_display.md R121). -/
def State.originY (s : State) (y : Nibble) : Nat := (s.getV y).toNat % 32

/-- The display column of sprite column `c`: wrapped, not clipped (43_display.md R121). -/
def columnAt (ox c : Nat) : Fin 64 := ⟨(ox + c) % 64, Nat.mod_lt _ (by decide)⟩

/-- The display row of sprite row `r`: wrapped, not clipped (43_display.md R121). -/
def rowAt (oy r : Nat) : Fin 32 := ⟨(oy + r) % 32, Nat.mod_lt _ (by decide)⟩

/-- Column `c` of a sprite row is bit `7 - c`: bit 7 is the leftmost (43_display.md R121). -/
def spriteBit (row : Byte) (c : Nat) : Bool := row.getLsbD (7 - c)

/-- The decimal digits of a byte: hundreds, tens, ones (42_index_and_memory.md R113). -/
def decimalDigits (a : Byte) : List Byte :=
  [BitVec.ofNat 8 (a.toNat / 100), BitVec.ofNat 8 (a.toNat / 10 % 10), BitVec.ofNat 8 (a.toNat % 10)]

end Sys2Proof.Machine
end

