-- ==== Sys2Proof/Machine/ControlFlow.lean ====
section
/-! DEFINITION. The program-counter state machine: return, call, jumps and the four skips on registers
(40_control_flow.md R70 to R79). -/

namespace Sys2Proof.Machine

/-- 00EE (40_control_flow.md R71): `pc` takes the popped value with no further advance (the spec's decision D1, log 11);
StackUnderflow when `sp == 0` (D5, log 5). -/
def execRet (s : State) : Result :=
  match s.pop with
  | some (t, s') => .next (s'.setPc t)
  | none => raise (.stackUnderflow (encode .ret) s.pc)

/-- 1nnn (40_control_flow.md R72). -/
def execJpNnn (nnn : Addr12) (s : State) : Result := .next (s.setPc (wordOfNnn nnn))

/-- 2nnn (40_control_flow.md R73): pushes `pc + 2`; StackOverflow when `sp == 16` (D4, log 5). -/
def execCallNnn (nnn : Addr12) (s : State) : Result :=
  match s.push (s.pc + 2) with
  | some s' => .next (s'.setPc (wordOfNnn nnn))
  | none => raise (.stackOverflow (encode (.callNnn nnn)) s.pc)

/-- 3xnn (40_control_flow.md R74). -/
def execSeVxNn (x : Nibble) (nn : Byte) (s : State) : Result := .next (s.skipIf (s.getV x == nn))

/-- 4xnn (40_control_flow.md R75). -/
def execSneVxNn (x : Nibble) (nn : Byte) (s : State) : Result := .next (s.skipIf (s.getV x != nn))

/-- 5xy0 (40_control_flow.md R76). -/
def execSeVxVy (x y : Nibble) (s : State) : Result := .next (s.skipIf (s.getV x == s.getV y))

/-- 9xy0 (40_control_flow.md R77). -/
def execSneVxVy (x y : Nibble) (s : State) : Result := .next (s.skipIf (s.getV x != s.getV y))

/-- Bnnn (40_control_flow.md R78): the offset is always `V[0]`, and the sum is not reduced to 12 bits. -/
def execJpV0Nnn (nnn : Addr12) (s : State) : Result :=
  .next (s.setPc ((s.getV 0).setWidth 16 + wordOfNnn nnn))

end Sys2Proof.Machine
end

