-- ==== Sys2Proof/Machine/Graphics.lean ====
section
/-! DEFINITION. The graphics engine: clear, and XOR drawing with wrap on both axes and collision detection
(43_display.md R120 to R122). -/

namespace Sys2Proof.Machine

/-- 00E0 (43_display.md R120). -/
def execCls (s : State) : Result := .next (s.setDisplay Display.blank).advance

/-- A drawing in progress: the display, and whether a pixel that was on has been turned off. -/
structure Drawing where
  disp : Display
  hit : Bool
  deriving DecidableEq, Repr

/-- A set sprite bit meets its target pixel: note a collision, then XOR it (43_display.md R121). -/
def Drawing.plot (d : Drawing) (px : Fin 64) (py : Fin 32) : Drawing where
  disp := Display.flip d.disp px py
  hit := d.hit || Display.pixel d.disp px py

/-- The columns of one sprite row, in the order of the list (43_display.md R121). -/
def Drawing.columns (d : Drawing) (row : Byte) (ox : Nat) (py : Fin 32) : List Nat → Drawing
  | [] => d
  | c :: cs => (if spriteBit row c then d.plot (columnAt ox c) py else d).columns row ox py cs

/-- The rows of a sprite, in the order of the list; row `r` is the byte at `I + r` (43_display.md R121). -/
def Drawing.rows (d : Drawing) (s : State) (ox oy : Nat) : List Nat → Drawing
  | [] => d
  | r :: rs => (d.columns (s.memRead (s.ea r)) ox (rowAt oy r) (List.range 8)).rows s ox oy rs

/-- The drawing that Dxyn makes on the display of `s`; the origins are the registers before the step
(43_display.md R121; that this holds of VF too is the spec's decision D8, log 7). -/
def State.drawSprite (s : State) (x y n : Nibble) : Drawing :=
  (Drawing.mk s.disp false).rows s (s.originX x) (s.originY y) (List.range n.toNat)

/-- Dxyn (43_display.md R121). -/
def execDrwVxVyN (x y n : Nibble) (s : State) : Result :=
  .next (((s.setDisplay (s.drawSprite x y n).disp).setV vf (collisionFlag (s.drawSprite x y n).hit)).advance)

end Sys2Proof.Machine
end

