-- ==== Sys2Proof/Machine/IndexMemory.lean ====
section
/-! DEFINITION. The index register and the memory instructions (42_index_and_memory.md R110 to R116). No memory
instruction changes `I` (R116). -/

namespace Sys2Proof.Machine

/-- Annn (42_index_and_memory.md R110). -/
def execLdINnn (nnn : Addr12) (s : State) : Result := .next (s.setI (wordOfNnn nnn)).advance

/-- Fx1E (42_index_and_memory.md R111): not masked to 12 bits, VF not written; the wrap at 2^16 is the spec's decision
D3. DESIGN CHOICE (the spec's own), log 4, safe. -/
def execAddIVx (x : Nibble) (s : State) : Result := .next (s.setI (s.i + (s.getV x).setWidth 16)).advance

/-- Fx29 (42_index_and_memory.md R112): all 8 bits of `V[x]` are used. -/
def execLdFVx (x : Nibble) (s : State) : Result := .next (s.setI ((s.getV x).setWidth 16 * 5)).advance

/-- Fx33 (42_index_and_memory.md R113). -/
def execLdBVx (x : Nibble) (s : State) : Result :=
  .next (s.memWriteAll (s.ea 0) (decimalDigits (s.getV x))).advance

/-- Fx55 (42_index_and_memory.md R114). -/
def execLdMemVx (x : Nibble) (s : State) : Result :=
  .next (s.memWriteAll (s.ea 0) (s.blockValues x)).advance

/-- `V[i] <- MemRead(I + i, 1)` for each `i` of the list, in order (42_index_and_memory.md R115). -/
def State.loadBlock (s : State) : List Nat → State
  | [] => s
  | i :: is => (s.setV (BitVec.ofNat 4 i) (s.memRead (s.ea i))).loadBlock is

/-- Fx65 (42_index_and_memory.md R115). -/
def execLdVxMem (x : Nibble) (s : State) : Result := .next (s.loadBlock (blockNumbers x)).advance

end Sys2Proof.Machine
end

