-- ==== Sys2Proof/Machine/KeysTimers.lean ====
section
/-! DEFINITION. The key and timer instructions (44_keys_and_timers.md R130 to R135). -/

namespace Sys2Proof.Machine

/-- Ex9E (44_keys_and_timers.md R130): KeyIndexOutOfRange when `V[x]` is above 15 (the spec's decision D7, log 6). -/
def execSkpVx (x : Nibble) (s : State) : Result :=
  if (s.getV x).toNat > 15 then raise (.keyIndexOutOfRange (encode (.skpVx x)) s.pc (s.getV x))
  else .next (s.skipIf (s.keyDown ((s.getV x).setWidth 4)))

/-- ExA1 (44_keys_and_timers.md R131): KeyIndexOutOfRange when `V[x]` is above 15 (the spec's decision D7, log 6). -/
def execSknpVx (x : Nibble) (s : State) : Result :=
  if (s.getV x).toNat > 15 then raise (.keyIndexOutOfRange (encode (.sknpVx x)) s.pc (s.getV x))
  else .next (s.skipIf (!s.keyDown ((s.getV x).setWidth 4)))

/-- Fx07 (44_keys_and_timers.md R133). -/
def execLdVxDt (x : Nibble) (s : State) : Result := .next (s.setV x s.dt).advance

/-- Fx0A (44_keys_and_timers.md R132): with no key pressed the step is Ok and changes nothing (the spec's decision
D24); a key already down completes it (D21). DESIGN CHOICE (the spec's own), log 14, unsafe. -/
def execLdVxK (x : Nibble) (s : State) : Result :=
  match s.firstKey with
  | some k => .next (s.setV x (k.setWidth 8)).advance
  | none => .next s

/-- Fx15 (44_keys_and_timers.md R134). -/
def execLdDtVx (x : Nibble) (s : State) : Result := .next (s.setDt (s.getV x)).advance

/-- Fx18 (44_keys_and_timers.md R135). -/
def execLdStVx (x : Nibble) (s : State) : Result := .next (s.setSt (s.getV x)).advance

end Sys2Proof.Machine
end

