-- ==== Sys2Proof/Machine/Step.lean ====
section
/-! DEFINITION. The step: fetch, decode, execute (30_encoding.md R50). -/

namespace Sys2Proof.Machine

/-- One `Step`: the word at `pc` is fetched and decoded; an unrecognized word raises UnknownInstruction
(60_exceptions.md R142), an instruction runs and writes `pc` itself. Of host transactions nothing happens here: they
act between steps (Machine/Transactions.lean; log 19). -/
def step (s : State) : Host.Outcome State Fault Refusal :=
  match decodeWord s.fetchWord with
  | some i => exec i s
  | none => raise (.unknownInstruction s.fetchWord s.pc)

/-- `s` with the instruction word stored where the next step fetches it: the high byte at `pc`, the low byte after it
(20_memory.md R33). It stands for a program loaded from outside the machine (log 18). -/
def State.withFetchWord (s : State) (nbits w : Nat) : State :=
  let word : Word := BitVec.ofNat 16 (w % 2 ^ nbits)
  s.memWriteAll s.pc.toNat [word.extractLsb' 8 8, word.extractLsb' 0 8]

end Sys2Proof.Machine
end

