-- ==== Sys2Proof/Machine/Transactions.lean ====
section
/-! DEFINITION. The host interface: the transactions of 60_exceptions.md R160, each atomic, in any order, any number of
times (R166). Two that overlap are no move of the model (R185, log 19). -/

namespace Sys2Proof.Machine

/-- The transactions (60_exceptions.md R160). The key number of `SetKey` is 0 to 15 by its type (R163). -/
inductive Transaction where
  | reset
  | loadProgram (bytes : List Byte)
  | step (rnd : Byte)
  | setKey (k : Nibble) (b : Bool)
  | getDelay
  | getSound
  | setDelay (b : Byte)
  | setSound (b : Byte)
  | timerTick
  | readDisplay
  | clearDirty
  deriving DecidableEq, Repr

/-- What a transaction answers. -/
inductive Response where
  /-- No result. -/
  | none
  /-- `Ok`. -/
  | ok
  /-- One of the five faults (60_exceptions.md R140). -/
  | fault (f : Fault)
  /-- The step has no meaning in the model; no instruction is refused, so no step answers this. -/
  | refused (r : Refusal)
  /-- The value of a timer (60_exceptions.md R164). -/
  | timer (b : Byte)
  /-- The pixels and the dirty flag (60_exceptions.md R165). -/
  | display (d : Display) (dirty : Bool)
  deriving DecidableEq, Repr

/-- `Reset` (60_exceptions.md R161, 70_reset_and_hazards.md R170). The model's own fields are not rewound: a reset does
not bring the same random bytes back (log 20). -/
def State.hostReset (s : State) : State := { State.reset with rndIn := s.rndIn, draws := s.draws }

/-- `LoadProgram(bytes)` (60_exceptions.md R162): more than 3584 bytes are rejected whole (R146); otherwise exactly
those bytes of memory change (the spec's decision D17, log 18). -/
def State.loadProgram (s : State) (bytes : List Byte) : State × Response :=
  if bytes.length > Config.maxProgram then (s, .fault (.capacityError bytes.length))
  else (s.memWriteAll Config.programBase bytes, .ok)

/-- `Step(rnd)` (30_encoding.md R50): the byte is offered to this step only; a fault leaves the state as it was
(60_exceptions.md R141). -/
def State.hostStep (s : State) (r : Byte) : State × Response :=
  match step { s with rndIn := r :: s.rndIn } with
  | .next t => ({ t with rndIn := s.rndIn }, .ok)
  | .fault f => (s, .fault f)
  | .refused f => (s, .refused f)

/-- One count down, not below 0 (60_exceptions.md R164). -/
def countDown (b : Byte) : Byte := if b = 0 then 0 else b - 1

/-- `TimerTick`: both timers count down by one, not below 0 (60_exceptions.md R164; the spec's decision D19, log 19). -/
def State.timerTick (s : State) : State := (s.setDt (countDown s.dt)).setSt (countDown s.st)

/-- `ClearDirty` (60_exceptions.md R165). -/
def State.clearDirty (s : State) : State := { s with dirty := false }

/-- The effect and the answer of one transaction (60_exceptions.md R160). -/
def transact (t : Transaction) (s : State) : State × Response :=
  match t with
  | .reset => (s.hostReset, .none)
  | .loadProgram bytes => s.loadProgram bytes
  | .step r => s.hostStep r
  | .setKey k b => (s.setKey k b, .none)
  | .getDelay => (s, .timer s.dt)
  | .getSound => (s, .timer s.st)
  | .setDelay b => (s.setDt b, .none)
  | .setSound b => (s.setSt b, .none)
  | .timerTick => (s.timerTick, .none)
  | .readDisplay => (s, .display s.disp s.dirty)
  | .clearDirty => (s.clearDirty, .none)

/-- The state after a list of transactions, the first one first. -/
def transactAll : List Transaction → State → State
  | [], s => s
  | t :: ts, s => transactAll ts (transact t s).1

end Sys2Proof.Machine
end

