-- ==== Sys2Proof/Safety.lean ====
section
/-! DEFINITION. The terms the statements use: the invariant, the states a host can reach, what an instruction may change
(its frame), where `pc` goes, and the conditions of the faults. They restate the spec's whole-machine tables and call
the machine only through its accessors (`getV`, `memRead`, `pixel`, `keyDown`, `ea`). -/

namespace Sys2Proof.Machine

/-- The invariant of the model: memory is in its canonical form. (`sp` in 0 to 16, the widths and the sizes of
10_state.md hold of every state by the types.) -/
def State.Inv (s : State) : Prop := Memory.wf s.mem

/-- The states a run can be in: `Reset` comes first (10_state.md R22), then any transactions (60_exceptions.md R166). -/
inductive Reachable : State → Prop where
  | reset : Reachable State.reset
  | transact {s : State} (t : Transaction) : Reachable s → Reachable (Machine.transact t s).1

/-- A run of `k` steps is safe when every step of it answers a next state: no fault and no refusal. The host does
nothing between these steps (log 19). -/
def SafeFor : Nat → State → Prop
  | 0, _ => True
  | k + 1, s => ∃ t, step s = .next t ∧ SafeFor k t

/-- The answer with the next state changed by `f`. -/
def mapNext (f : State → State) : Result → Result
  | .next t => .next (f t)
  | .fault e => .fault e
  | .refused r => .refused r

/-! ### Frames -/

/-- What may change besides `pc`: which registers, the index register, the stack pointer and slots, each timer, the
display with its dirty flag, which bytes of memory (addresses below 4096), the random input. Keys never change. -/
structure MayChange where
  regs : Nibble → Prop := fun _ => False
  index : Prop := False
  stack : Prop := False
  delay : Prop := False
  sound : Prop := False
  screen : Prop := False
  bytes : Nat → Prop := fun _ => False
  random : Prop := False

/-- From `s` to `t`, all but `pc` and what `c` lists is unchanged. -/
structure Frame (c : MayChange) (s t : State) : Prop where
  regs : ∀ z, ¬ c.regs z → t.getV z = s.getV z
  index : ¬ c.index → t.i = s.i
  stack : ¬ c.stack → t.sp = s.sp ∧ t.stack = s.stack
  delay : ¬ c.delay → t.dt = s.dt
  sound : ¬ c.sound → t.st = s.st
  screen : ¬ c.screen → (∀ px py, t.pixel px py = s.pixel px py) ∧ t.dirty = s.dirty
  keys : ∀ k, t.keyDown k = s.keyDown k
  bytes : ∀ a, ¬ c.bytes (a % 4096) → t.memRead a = s.memRead a
  random : ¬ c.random → t.rndIn = s.rndIn ∧ t.draws = s.draws

/-- The addresses of the first `n` bytes at `I`, each modulo 4096 (42_index_and_memory.md R116). -/
def State.blockAddress (s : State) (n a : Nat) : Prop := ∃ k < n, a = s.ea k % 4096

/-- What each instruction may change besides `pc`: the tables of 10_state.md R10, R11 and the state elements that R13
to R18 name as written by each instruction. -/
def mayChange (s : State) : Instr → MayChange
  | .cls => { screen := True }
  | .ret => { stack := True }
  | .jpNnn _ => { }
  | .callNnn _ => { stack := True }
  | .seVxNn _ _ => { }
  | .sneVxNn _ _ => { }
  | .seVxVy _ _ => { }
  | .ldVxNn x _ => { regs := fun z => z = x }
  | .addVxNn x _ => { regs := fun z => z = x }
  | .ldVxVy x _ => { regs := fun z => z = x }
  | .orVxVy x _ => { regs := fun z => z = x }
  | .andVxVy x _ => { regs := fun z => z = x }
  | .xorVxVy x _ => { regs := fun z => z = x }
  | .addVxVy x _ => { regs := fun z => z = x ∨ z = 0xF#4 }
  | .subVxVy x _ => { regs := fun z => z = x ∨ z = 0xF#4 }
  | .shrVxVy x _ => { regs := fun z => z = x ∨ z = 0xF#4 }
  | .subnVxVy x _ => { regs := fun z => z = x ∨ z = 0xF#4 }
  | .shlVxVy x _ => { regs := fun z => z = x ∨ z = 0xF#4 }
  | .sneVxVy _ _ => { }
  | .ldINnn _ => { index := True }
  | .jpV0Nnn _ => { }
  | .rndVxNn x _ => { regs := fun z => z = x, random := True }
  | .drwVxVyN _ _ _ => { regs := fun z => z = 0xF#4, screen := True }
  | .skpVx _ => { }
  | .sknpVx _ => { }
  | .ldVxDt x => { regs := fun z => z = x }
  | .ldVxK x => { regs := fun z => z = x }
  | .ldDtVx _ => { delay := True }
  | .ldStVx _ => { sound := True }
  | .addIVx _ => { index := True }
  | .ldFVx _ => { index := True }
  | .ldBVx _ => { bytes := s.blockAddress 3 }
  | .ldMemVx x => { bytes := s.blockAddress (x.toNat + 1) }
  | .ldVxMem x => { regs := fun z => z.toNat ≤ x.toNat }

/-- An instruction of one 16-bit word is selected by `match` and `mask` (30_encoding.md R56). -/
def EncodedBy (i : Instr) (mat mask : Word) : Prop := encode i &&& mask = mat

/-! ### Where `pc` goes -/

/-- `skip` if the condition holds, else `next` (40_control_flow.md R70). -/
def SkipsIf (s : State) (c : Prop) (p : Word) : Prop := (c → p = s.pc + 4) ∧ (¬ c → p = s.pc + 2)

/-- The table of 40_control_flow.md R70: `p` is `pc` after the instruction, started in `s`, has run. -/
def PcAfter (s : State) (p : Word) : Instr → Prop
  | .ret => p = s.stack[s.sp.val - 1]'(by have := s.sp.isLt; omega)
  | .jpNnn nnn => p = nnn.setWidth 16
  | .callNnn nnn => p = nnn.setWidth 16
  | .jpV0Nnn nnn => p.toNat = (s.getV 0).toNat + nnn.toNat
  | .seVxNn x nn => SkipsIf s (s.getV x = nn) p
  | .sneVxNn x nn => SkipsIf s (s.getV x ≠ nn) p
  | .seVxVy x y => SkipsIf s (s.getV x = s.getV y) p
  | .sneVxVy x y => SkipsIf s (s.getV x ≠ s.getV y) p
  | .skpVx x => SkipsIf s (∃ k, k.toNat = (s.getV x).toNat ∧ s.keyDown k = true) p
  | .sknpVx x => SkipsIf s (∃ k, k.toNat = (s.getV x).toNat ∧ s.keyDown k = false) p
  | .ldVxK _ => ((∃ k, s.keyDown k = true) → p = s.pc + 2) ∧ ((∀ k, s.keyDown k = false) → p = s.pc)
  | .cls | .ldVxNn _ _ | .addVxNn _ _ | .ldVxVy _ _ | .orVxVy _ _ | .andVxVy _ _ | .xorVxVy _ _ | .addVxVy _ _
  | .subVxVy _ _ | .shrVxVy _ _ | .subnVxVy _ _ | .shlVxVy _ _ | .ldINnn _ | .rndVxNn _ _ | .drwVxVyN _ _ _
  | .ldVxDt _ | .ldDtVx _ | .ldStVx _ | .addIVx _ | .ldFVx _ | .ldBVx _ | .ldMemVx _ | .ldVxMem _ => p = s.pc + 2

/-! ### Sprites -/

/-- A set bit of the sprite at `I` has pixel (px, py) as its target: row `r`, column `c`, both axes wrapped
(43_display.md R121). -/
def State.SpriteHits (s : State) (x y n : Nibble) (px : Fin 64) (py : Fin 32) : Prop :=
  ∃ r < n.toNat, ∃ c < 8, (s.memRead (s.ea r)).getLsbD (7 - c) = true ∧
    px.val = ((s.getV x).toNat % 64 + c) % 64 ∧ py.val = ((s.getV y).toNat % 32 + r) % 32

/-- The set bits of the sprite of `n` rows at `I`, as (row, column) (43_display.md R122). -/
def State.spriteBits (s : State) (n : Nibble) : Set (Fin 16 × Fin 8) :=
  { b | b.1.val < n.toNat ∧ (s.memRead (s.ea b.1.val)).getLsbD (7 - b.2.val) = true }

/-- The pixels that are on. -/
def State.onPixels (s : State) : Set (Fin 64 × Fin 32) := { p | s.pixel p.1 p.2 = true }

/-! ### Faults -/

/-- The word at `pc` decodes to `i`. -/
def State.Fetches (s : State) (i : Instr) : Prop := decodeWord s.fetchWord = some i

/-- The cause of each fault of a step (60_exceptions.md R140, table). -/
def FaultCause (s : State) : Fault → Prop
  | .unknownInstruction w p => decodeWord s.fetchWord = none ∧ w = s.fetchWord ∧ p = s.pc
  | .stackOverflow w p => (∃ nnn, s.Fetches (.callNnn nnn)) ∧ s.sp.val = 16 ∧ w = s.fetchWord ∧ p = s.pc
  | .stackUnderflow w p => s.Fetches .ret ∧ s.sp.val = 0 ∧ w = s.fetchWord ∧ p = s.pc
  | .keyIndexOutOfRange w p k =>
    ∃ x, (s.Fetches (.skpVx x) ∨ s.Fetches (.sknpVx x)) ∧ (s.getV x).toNat > 15 ∧ k = s.getV x ∧
      w = s.fetchWord ∧ p = s.pc
  | .capacityError _ => False

/-- The reset values of 10_state.md R21, the table (`dirty` is the spec's decision D12, log 10). -/
structure ResetValues (s : State) : Prop where
  regs : ∀ z, s.getV z = 0
  pc : s.pc = 0x0200
  index : s.i = 0
  sp : s.sp.val = 0
  slots : ∀ j (h : j < 16), s.stack[j] = 0
  delay : s.dt = 0
  sound : s.st = 0
  keys : ∀ k, s.keyDown k = false
  pixels : ∀ px py, s.pixel px py = false
  dirty : s.dirty = true
  font : ∀ a : Fin 80, s.memRead a.val = Config.font a
  zeros : ∀ a, 80 ≤ a → a < 4096 → s.memRead a = 0

/-- Transactions that neither reset the core nor load memory: those that cannot bring a faulted core back
(60_exceptions.md R141). -/
def Transaction.Gentle : Transaction → Prop
  | .reset => False
  | .loadProgram _ => False
  | .step _ | .setKey _ _ | .getDelay | .getSound | .setDelay _ | .setSound _ | .timerTick | .readDisplay
  | .clearDirty => True

end Sys2Proof.Machine
end

