-- ==== Sys2Proof/Certificates/Slice0/Obligations.lean ====
section
/-! DEFINITION. The statements for the provers. A statement whose clause rests on one of the spec's own decisions
(92_eei_decisions.md D<n>) or on a choice of the model says so and names the log entry. In every statement that gives
`pc` after an instruction, `pc + 2` and `pc + 4` wrap at 2^16, which is D2 (log 3). -/

open Sys2Proof Sys2Proof.Machine

/-! ### Encoding -/

/-- 30_encoding.md R51, R56; 20_memory.md R33: the two bytes of every instruction, followed by anything, decode to it. -/
def Obligations.DecodeOfEncodedBytes : Prop :=
  ∀ (i : Instr) (rest : List Byte), i.WellFormed ∧ decode (encodeBytes i ++ rest) = .ok (i, rest)

/-- 30_encoding.md R61: words and instructions correspond one to one. -/
def Obligations.WordsAndInstructionsCorrespond : Prop :=
  ∀ (w : Word) (i : Instr), decodeWord w = some i ↔ encode i = w

/-- 30_encoding.md R53, R56: a recognized word is selected by the row of its instruction and by no other of the 34
rows; an unrecognized word is selected by none. -/
def Obligations.DecoderAgreesWithOpcodeRows : Prop :=
  ∀ w : Word,
    (∀ i, decodeWord w = some i → rowOf i ∈ opcodeRows ∧ ∀ row ∈ opcodeRows, rowSelects row w ↔ row = rowOf i) ∧
    (decodeWord w = none ↔ ∀ row ∈ opcodeRows, ¬ rowSelects row w)

/-- 30_encoding.md R58, the table of the six families (the exact match of every digit is the spec's decision D9,
log 8). -/
def Obligations.UnrecognizedWordsByFamily : Prop :=
  ∀ w : Word, decodeWord w = none ↔
    (fieldOp w = 0x0 ∧ w ≠ 0x00E0 ∧ w ≠ 0x00EE) ∨
    (fieldOp w = 0x5 ∧ fieldN w ≠ 0x0) ∨
    (fieldOp w = 0x8 ∧ fieldN w ∈ [0x8#4, 0x9#4, 0xA#4, 0xB#4, 0xC#4, 0xD#4, 0xF#4]) ∨
    (fieldOp w = 0x9 ∧ fieldN w ≠ 0x0) ∨
    (fieldOp w = 0xE ∧ fieldNn w ∉ [0x9E#8, 0xA1#8]) ∨
    (fieldOp w = 0xF ∧
      fieldNn w ∉ [0x07#8, 0x0A#8, 0x15#8, 0x18#8, 0x1E#8, 0x29#8, 0x33#8, 0x55#8, 0x65#8])

/-- Words written out from 30_encoding.md R56, one or two of each family; the bits are those of the patterns. -/
def Obligations.SampleWordsDecode : Prop :=
  decodeWord 0b0000000011100000 = some .cls ∧
  decodeWord 0b0000000011101110 = some .ret ∧
  decodeWord 0b0010101010111100 = some (.callNnn 0xABC) ∧
  decodeWord 0b0011101000010010 = some (.seVxNn 0xA 0x12) ∧
  decodeWord 0b0101001101000000 = some (.seVxVy 0x3 0x4) ∧
  decodeWord 0b1000000110010101 = some (.subVxVy 0x1 0x9) ∧
  decodeWord 0b1101001000110111 = some (.drwVxVyN 0x2 0x3 0x7) ∧
  decodeWord 0b1110010110100001 = some (.sknpVx 0x5) ∧
  decodeWord 0b1111011001010101 = some (.ldMemVx 0x6) ∧
  decodeWord 0b0101001101000001 = none ∧
  decodeWord 0x0000 = none

/-! ### The step -/

/-- 30_encoding.md R50: when the word at `pc` decodes to an instruction, the step is that instruction's execution at the
same state; nothing is added around it (each meaning writes `pc` itself). -/
def Obligations.StepRunsDecodedInstruction : Prop :=
  ∀ (s : State) (i : Instr), decodeWord s.fetchWord = some i → step s = exec i s

/-- 60_exceptions.md R142: UnknownInstruction is raised exactly when the decoder does not recognize the word, with the
word as fetched and the full `pc`. -/
def Obligations.UnknownInstructionIsRaised : Prop :=
  ∀ s : State,
    (decodeWord s.fetchWord = none → step s = .fault (.unknownInstruction s.fetchWord s.pc)) ∧
    (∀ w p, step s = .fault (.unknownInstruction w p) → decodeWord s.fetchWord = none ∧ w = s.fetchWord ∧ p = s.pc)

/-- 20_memory.md R33, R31, R35: the fetch is big-endian, at any parity of `pc`, and sees `pc` modulo 4096 only. -/
def Obligations.FetchIsBigEndianAndWraps : Prop :=
  ∀ s : State,
    s.fetchWord.extractLsb' 8 8 = s.memRead (s.pc.toNat % 4096) ∧
    s.fetchWord.extractLsb' 0 8 = s.memRead ((s.pc.toNat + 1) % 4096) ∧
    ∀ p : Word, p.toNat % 4096 = s.pc.toNat % 4096 → (s.setPc p).fetchWord = s.fetchWord

/-- 60_exceptions.md R140, R148: a step answers a next state or a fault, never a refusal; and it answers a given fault
exactly when that fault's cause holds. (The stack and key faults are the spec's decisions D4, D5, D7, log 5, 6.) -/
def Obligations.StepFaultsExactlyOnItsCauses : Prop :=
  ∀ s : State, ((∃ t, step s = .next t) ∨ ∃ f, step s = .fault f) ∧ ∀ f, step s = .fault f ↔ FaultCause s f

/-- 60_exceptions.md R167 (a): a self-jump is a step that changes nothing, and so it runs for ever without a fault. -/
def Obligations.SelfJumpRunsForEver : Prop :=
  ∀ (s : State) (nnn : Addr12), s.Fetches (.jpNnn nnn) → s.pc = nnn.setWidth 16 →
    step s = .next s ∧ ∀ k, SafeFor k s

/-! ### Control flow -/

/-- 40_control_flow.md R72. -/
def Obligations.JumpSetsPcOnly : Prop :=
  ∀ (nnn : Addr12) (s : State), EncodedBy (.jpNnn nnn) 0x1000 0xF000 ∧
    exec (.jpNnn nnn) s = .next { s with pc := nnn.setWidth 16 } ∧
    (nnn.setWidth 16 = s.pc → exec (.jpNnn nnn) s = .next s)

/-- 40_control_flow.md R78: the offset is `V[0]`, the sum is not reduced to 12 bits, `V[0] = 0` makes it 1nnn. -/
def Obligations.IndexedJumpAddsV0 : Prop :=
  ∀ (nnn : Addr12) (s : State), EncodedBy (.jpV0Nnn nnn) 0xB000 0xF000 ∧
    (∃ p : Word, exec (.jpV0Nnn nnn) s = .next { s with pc := p } ∧ p.toNat = (s.getV 0).toNat + nnn.toNat) ∧
    (s.getV 0 = 0 → exec (.jpV0Nnn nnn) s = exec (.jpNnn nnn) s)

/-- 40_control_flow.md R74 to R77: 4 on the condition, 2 otherwise; nothing but `pc` changes. -/
def Obligations.RegisterSkips : Prop :=
  ∀ (x y : Nibble) (nn : Byte) (s : State),
    (EncodedBy (.seVxNn x nn) 0x3000 0xF000 ∧
      exec (.seVxNn x nn) s = .next { s with pc := if s.getV x = nn then s.pc + 4 else s.pc + 2 }) ∧
    (EncodedBy (.sneVxNn x nn) 0x4000 0xF000 ∧
      exec (.sneVxNn x nn) s = .next { s with pc := if s.getV x ≠ nn then s.pc + 4 else s.pc + 2 }) ∧
    (EncodedBy (.seVxVy x y) 0x5000 0xF00F ∧
      exec (.seVxVy x y) s = .next { s with pc := if s.getV x = s.getV y then s.pc + 4 else s.pc + 2 }) ∧
    (EncodedBy (.sneVxVy x y) 0x9000 0xF00F ∧
      exec (.sneVxVy x y) s = .next { s with pc := if s.getV x ≠ s.getV y then s.pc + 4 else s.pc + 2 })

/-- 40_control_flow.md R73, 60_exceptions.md R143: the call completes with fewer than 16 addresses held, and raises
StackOverflow with 16 (the spec's decision D4, log 5). -/
def Obligations.CallPushesReturnAddress : Prop :=
  ∀ (nnn : Addr12) (s : State), EncodedBy (.callNnn nnn) 0x2000 0xF000 ∧
    (∀ h : s.sp.val < 16, ∃ t, exec (.callNnn nnn) s = .next t ∧
      t.sp.val = s.sp.val + 1 ∧ t.stack[s.sp.val] = s.pc + 2 ∧
      (∀ j (hj : j < 16), j ≠ s.sp.val → t.stack[j] = s.stack[j]) ∧
      t.pc = nnn.setWidth 16 ∧ Frame { stack := True } s t) ∧
    (s.sp.val = 16 → exec (.callNnn nnn) s = .fault (.stackOverflow (encode (.callNnn nnn)) s.pc))

/-- 40_control_flow.md R71, 60_exceptions.md R144: the return takes the top address as it stands, with no further
advance (the spec's decision D1, log 11), leaves every slot, and raises StackUnderflow when none is held (D5, log 5). -/
def Obligations.ReturnPopsReturnAddress : Prop :=
  ∀ s : State, EncodedBy .ret 0x00EE 0xFFFF ∧
    (∀ h : 0 < s.sp.val, ∃ t, exec .ret s = .next t ∧
      t.sp.val = s.sp.val - 1 ∧ t.pc = s.stack[s.sp.val - 1]'(by have := s.sp.isLt; omega) ∧
      t.stack = s.stack ∧ Frame { stack := True } s t) ∧
    (s.sp.val = 0 → exec .ret s = .fault (.stackUnderflow 0x00EE s.pc))

/-- The source's Scenario 3 (95_test_vectors.md S-3) for every call: whatever a subroutine does that leaves the stack as
it found it, its return lands on the instruction after the call and the stack is as before (rests on D1, log 11). -/
def Obligations.ReturnUndoesCall : Prop :=
  ∀ (nnn : Addr12) (s t u : State), exec (.callNnn nnn) s = .next t → u.sp = t.sp → u.stack = t.stack →
    ∃ w, exec .ret u = .next w ∧ w.pc = s.pc + 2 ∧ w.sp = s.sp ∧
      ∀ j (hj : j < 16), j < s.sp.val → w.stack[j] = s.stack[j]

/-- 40_control_flow.md R70, the table: where `pc` is after every instruction that completes (the wrap at 2^16 is the
spec's decision D2, log 3; the return's row rests on D1, log 11). -/
def Obligations.PcAfterEveryInstruction : Prop :=
  ∀ (i : Instr) (s t : State), exec i s = .next t → PcAfter s t.pc i

/-! ### Loads and the ALU -/

/-- 41_load_and_alu.md R91. -/
def Obligations.LoadConstant : Prop :=
  ∀ (x : Nibble) (nn : Byte) (s : State), EncodedBy (.ldVxNn x nn) 0x6000 0xF000 ∧
    ∃ t, exec (.ldVxNn x nn) s = .next t ∧ t.getV x = nn ∧ t.pc = s.pc + 2 ∧ Frame { regs := fun z => z = x } s t

/-- 41_load_and_alu.md R92: VF is not written (unless it is `x`). -/
def Obligations.AddConstantWithoutFlag : Prop :=
  ∀ (x : Nibble) (nn : Byte) (s : State), EncodedBy (.addVxNn x nn) 0x7000 0xF000 ∧
    ∃ t, exec (.addVxNn x nn) s = .next t ∧ (t.getV x).toNat = ((s.getV x).toNat + nn.toNat) % 256 ∧
      t.pc = s.pc + 2 ∧ Frame { regs := fun z => z = x } s t

/-- 41_load_and_alu.md R93. -/
def Obligations.CopyRegister : Prop :=
  ∀ (x y : Nibble) (s : State), EncodedBy (.ldVxVy x y) 0x8000 0xF00F ∧
    ∃ t, exec (.ldVxVy x y) s = .next t ∧ t.getV x = s.getV y ∧ t.pc = s.pc + 2 ∧
      Frame { regs := fun z => z = x } s t

/-- 41_load_and_alu.md R94, R95, R96: bit by bit, and VF neither written nor reset (unless it is `x`). -/
def Obligations.BitwiseOperations : Prop :=
  ∀ (x y : Nibble) (s : State),
    (EncodedBy (.orVxVy x y) 0x8001 0xF00F ∧ ∃ t, exec (.orVxVy x y) s = .next t ∧
      (∀ k, (t.getV x).getLsbD k = ((s.getV x).getLsbD k || (s.getV y).getLsbD k)) ∧
      t.pc = s.pc + 2 ∧ Frame { regs := fun z => z = x } s t) ∧
    (EncodedBy (.andVxVy x y) 0x8002 0xF00F ∧ ∃ t, exec (.andVxVy x y) s = .next t ∧
      (∀ k, (t.getV x).getLsbD k = ((s.getV x).getLsbD k && (s.getV y).getLsbD k)) ∧
      t.pc = s.pc + 2 ∧ Frame { regs := fun z => z = x } s t) ∧
    (EncodedBy (.xorVxVy x y) 0x8003 0xF00F ∧ ∃ t, exec (.xorVxVy x y) s = .next t ∧
      (∀ k, (t.getV x).getLsbD k = ((s.getV x).getLsbD k ^^ (s.getV y).getLsbD k)) ∧
      t.pc = s.pc + 2 ∧ Frame { regs := fun z => z = x } s t)

/-- 41_load_and_alu.md R97: the sum, VF the carry; with `x` = 0xF the sum stays in VF, with `y` = 0xF the old VF is the
addend. -/
def Obligations.AddRegistersWithCarry : Prop :=
  ∀ (x y : Nibble) (s : State), EncodedBy (.addVxVy x y) 0x8004 0xF00F ∧
    ∃ t, exec (.addVxVy x y) s = .next t ∧
      (t.getV x).toNat = ((s.getV x).toNat + (s.getV y).toNat) % 256 ∧
      (x ≠ 0xF#4 → t.getV 0xF#4 = if (s.getV x).toNat + (s.getV y).toNat > 255 then 1 else 0) ∧
      t.pc = s.pc + 2 ∧ Frame { regs := fun z => z = x ∨ z = 0xF#4 } s t

/-- 41_load_and_alu.md R98: the difference, VF = 1 exactly when `V[x] > V[y]`, strictly (90_conflicts.md C6, log 12).
The forms that name VF rest on the spec's decision D8 (log 7). -/
def Obligations.SubtractWithStrictFlag : Prop :=
  ∀ (x y : Nibble) (s : State), EncodedBy (.subVxVy x y) 0x8005 0xF00F ∧
    ∃ t, exec (.subVxVy x y) s = .next t ∧
      (t.getV x).toNat = (256 + (s.getV x).toNat - (s.getV y).toNat) % 256 ∧
      (x ≠ 0xF#4 → t.getV 0xF#4 = if (s.getV x).toNat > (s.getV y).toNat then 1 else 0) ∧
      t.pc = s.pc + 2 ∧ Frame { regs := fun z => z = x ∨ z = 0xF#4 } s t

/-- 41_load_and_alu.md R100: the reverse difference, VF = 1 exactly when `V[y] >= V[x]`. The forms that name VF rest on
the spec's decision D8 (log 7). -/
def Obligations.ReverseSubtractWithFlag : Prop :=
  ∀ (x y : Nibble) (s : State), EncodedBy (.subnVxVy x y) 0x8007 0xF00F ∧
    ∃ t, exec (.subnVxVy x y) s = .next t ∧
      (t.getV x).toNat = (256 + (s.getV y).toNat - (s.getV x).toNat) % 256 ∧
      (x ≠ 0xF#4 → t.getV 0xF#4 = if (s.getV y).toNat ≥ (s.getV x).toNat then 1 else 0) ∧
      t.pc = s.pc + 2 ∧ Frame { regs := fun z => z = x ∨ z = 0xF#4 } s t

/-- 41_load_and_alu.md R99, R101: the source is `V[y]`, the old `V[x]` is not read; VF is the bit shifted out. The forms
that name VF rest on the spec's decision D8 (log 7). -/
def Obligations.ShiftsTakeVy : Prop :=
  ∀ (x y : Nibble) (s : State),
    (EncodedBy (.shrVxVy x y) 0x8006 0xF00F ∧ ∃ t, exec (.shrVxVy x y) s = .next t ∧
      (t.getV x).toNat = (s.getV y).toNat / 2 ∧ (x ≠ 0xF#4 → (t.getV 0xF#4).toNat = (s.getV y).toNat % 2) ∧
      t.pc = s.pc + 2 ∧ Frame { regs := fun z => z = x ∨ z = 0xF#4 } s t) ∧
    (EncodedBy (.shlVxVy x y) 0x800E 0xF00F ∧ ∃ t, exec (.shlVxVy x y) s = .next t ∧
      (t.getV x).toNat = 2 * (s.getV y).toNat % 256 ∧ (x ≠ 0xF#4 → (t.getV 0xF#4).toNat = (s.getV y).toNat / 128) ∧
      t.pc = s.pc + 2 ∧ Frame { regs := fun z => z = x ∨ z = 0xF#4 } s t)

/-- 41_load_and_alu.md R102: `rnd AND nn` for a byte `rnd` under no law: the byte the host offered, or else the free
value `Config.rnd`, and a fresh one the next time. It holds of every value of that byte (the two fields are the model's
own, log 2). -/
def Obligations.RandomByteIsMasked : Prop :=
  ∀ (x : Nibble) (nn : Byte) (s : State), EncodedBy (.rndVxNn x nn) 0xC000 0xF000 ∧
    ∃ t r, exec (.rndVxNn x nn) s = .next t ∧ t.getV x = r &&& nn ∧ t.pc = s.pc + 2 ∧
      Frame { regs := fun z => z = x, random := True } s t ∧
      (∀ q l, s.rndIn = q :: l → r = q ∧ t.rndIn = l ∧ t.draws = s.draws) ∧
      (s.rndIn = [] → r = Config.rnd s.draws ∧ t.rndIn = [] ∧ t.draws = s.draws + 1)

/-! ### Index register and memory -/

/-- 42_index_and_memory.md R110, R112: `I` becomes `nnn`, or five times all of `V[x]`. -/
def Obligations.IndexLoads : Prop :=
  ∀ (x : Nibble) (nnn : Addr12) (s : State),
    (EncodedBy (.ldINnn nnn) 0xA000 0xF000 ∧
      exec (.ldINnn nnn) s = .next { s with i := nnn.setWidth 16, pc := s.pc + 2 }) ∧
    (EncodedBy (.ldFVx x) 0xF029 0xF0FF ∧
      ∃ j : Word, exec (.ldFVx x) s = .next { s with i := j, pc := s.pc + 2 } ∧ j.toNat = (s.getV x).toNat * 5)

/-- 42_index_and_memory.md R111: not masked to 12 bits, VF not written; the wrap at 2^16 is the spec's decision D3
(log 4). -/
def Obligations.IndexAdd : Prop :=
  ∀ (x : Nibble) (s : State), EncodedBy (.addIVx x) 0xF01E 0xF0FF ∧
    ∃ j : Word, exec (.addIVx x) s = .next { s with i := j, pc := s.pc + 2 } ∧
      j.toNat = (s.i.toNat + (s.getV x).toNat) % 65536

/-- 42_index_and_memory.md R113: hundreds, tens, ones at `I`, `I + 1`, `I + 2`, each address modulo 4096; every other
byte, every register and `I` unchanged. -/
def Obligations.DecimalDigitsStored : Prop :=
  ∀ (x : Nibble) (s : State), EncodedBy (.ldBVx x) 0xF033 0xF0FF ∧
    ∃ t, exec (.ldBVx x) s = .next t ∧
      (t.memRead (s.ea 0)).toNat = (s.getV x).toNat / 100 ∧
      (t.memRead (s.ea 1)).toNat = (s.getV x).toNat / 10 % 10 ∧
      (t.memRead (s.ea 2)).toNat = (s.getV x).toNat % 10 ∧
      t.pc = s.pc + 2 ∧ Frame { bytes := s.blockAddress 3 } s t

/-- 42_index_and_memory.md R114: `V[0]` to `V[x]` at `I` up, each address modulo 4096; every other byte, every register
and `I` unchanged. -/
def Obligations.RegisterBlockStored : Prop :=
  ∀ (x : Nibble) (s : State), EncodedBy (.ldMemVx x) 0xF055 0xF0FF ∧
    ∃ t, exec (.ldMemVx x) s = .next t ∧
      (∀ z : Nibble, z.toNat ≤ x.toNat → t.memRead (s.ea z.toNat) = s.getV z) ∧
      t.pc = s.pc + 2 ∧ Frame { bytes := s.blockAddress (x.toNat + 1) } s t

/-- 42_index_and_memory.md R115: `V[0]` to `V[x]` from `I` up, each address modulo 4096; memory, `I` and the registers
above `x` unchanged. -/
def Obligations.RegisterBlockLoaded : Prop :=
  ∀ (x : Nibble) (s : State), EncodedBy (.ldVxMem x) 0xF065 0xF0FF ∧
    ∃ t, exec (.ldVxMem x) s = .next t ∧
      (∀ z : Nibble, z.toNat ≤ x.toNat → t.getV z = s.memRead (s.ea z.toNat)) ∧
      t.pc = s.pc + 2 ∧ Frame { regs := fun z => z.toNat ≤ x.toNat } s t

/-- 95_test_vectors.md S-P3 and 42_index_and_memory.md R115: after Fx55, whatever was done to the registers, Fx65 with
the same `x` and `I` brings `V[0]` to `V[x]` back, provided memory was not overwritten. -/
def Obligations.StoreThenLoadRestoresRegisters : Prop :=
  ∀ (x : Nibble) (s t u : State), exec (.ldMemVx x) s = .next t → u.i = s.i →
    (∀ a, u.memRead a = t.memRead a) →
    ∃ w, exec (.ldVxMem x) u = .next w ∧ ∀ z : Nibble, z.toNat ≤ x.toNat → w.getV z = s.getV z

/-- 20_memory.md R41: when Fx55 writes the two bytes at the `pc` it leaves, the next step executes the word just
written. -/
def Obligations.StoredWordIsExecutedNext : Prop :=
  ∀ (x z : Nibble) (s t : State) (i : Instr), exec (.ldMemVx x) s = .next t → z.toNat + 1 ≤ x.toNat →
    t.pc.toNat % 4096 = s.ea z.toNat % 4096 → decodeWord (s.getV z ++ s.getV (z + 1)) = some i →
    step t = exec i t

/-- 10_state.md R13: `I` is observed only modulo 4096. Two states that differ in `I` by a multiple of 4096 take the same
step, and still differ in nothing else (the wrap of Fx1E at 2^16 is the spec's decision D3, log 4). -/
def Obligations.IndexObservedModulo4096 : Prop :=
  ∀ (i : Instr) (s : State) (j : Word), j.toNat % 4096 = s.i.toNat % 4096 →
    mapNext (fun t => { t with i := t.i &&& 0x0FFF }) (exec i { s with i := j }) =
      mapNext (fun t => { t with i := t.i &&& 0x0FFF }) (exec i s)

/-! ### Display -/

/-- 43_display.md R120. -/
def Obligations.ClearScreen : Prop :=
  ∀ s : State, EncodedBy .cls 0x00E0 0xFFFF ∧
    ∃ t, exec .cls s = .next t ∧ (∀ px py, t.pixel px py = false) ∧ t.dirty = true ∧ t.pc = s.pc + 2 ∧
      Frame { screen := True } s t

/-- 43_display.md R121: a pixel changes exactly when a set sprite bit targets it, both axes wrapped; VF tells whether a
pixel that was on was targeted. Coordinates held in VF are its old value by the spec's decision D8 (log 7); that `dirty`
is set though no pixel changes is D12 (log 10). -/
def Obligations.DrawXorsSprite : Prop :=
  ∀ (x y n : Nibble) (s : State), EncodedBy (.drwVxVyN x y n) 0xD000 0xF000 ∧
    ∃ t, exec (.drwVxVyN x y n) s = .next t ∧
      (∀ px py, t.pixel px py ≠ s.pixel px py ↔ s.SpriteHits x y n px py) ∧
      ((∃ px py, s.SpriteHits x y n px py ∧ s.pixel px py = true) → t.getV 0xF#4 = 1) ∧
      ((∀ px py, s.SpriteHits x y n px py → s.pixel px py = false) → t.getV 0xF#4 = 0) ∧
      t.dirty = true ∧ t.pc = s.pc + 2 ∧ Frame { regs := fun z => z = 0xF#4, screen := True } s t

/-- 43_display.md R122 (b): drawing the same sprite again, with `I`, the sprite bytes, `V[x]` and `V[y]` as at the first
draw, restores the display; VF is then 1 exactly when some target was off before the first draw. R122 (b) says so for
`x` and `y` other than 0xF; with VF as a coordinate (put back before the second draw) the targets are those of the old
VF, which is the spec's decision D8 in 43_display.md R121 (log 7). -/
def Obligations.DrawTwiceRestoresDisplay : Prop :=
  ∀ (x y n : Nibble) (s t t' u : State), exec (.drwVxVyN x y n) s = .next t →
    t'.i = s.i → (∀ a, t'.memRead a = s.memRead a) → t'.getV x = s.getV x → t'.getV y = s.getV y →
    (∀ px py, t'.pixel px py = t.pixel px py) → exec (.drwVxVyN x y n) t' = .next u →
    (∀ px py, u.pixel px py = s.pixel px py) ∧
    (u.getV 0xF#4 = 1 ↔ ∃ px py, s.SpriteHits x y n px py ∧ s.pixel px py = false)

/-- 43_display.md R122 (c): the on pixels after a draw are those before, plus the set sprite bits, minus twice the
collisions (a collision is a set bit whose target was on before the draw). With `x` or `y` = 0xF the targets are those
of the old VF, which is the spec's decision D8 in 43_display.md R121 (log 7). -/
def Obligations.DrawCountsPixels : Prop :=
  ∀ (x y n : Nibble) (s t : State), exec (.drwVxVyN x y n) s = .next t →
    t.onPixels.ncard +
        2 * { b ∈ s.spriteBits n | s.pixel (columnAt (s.originX x) b.2.val) (rowAt (s.originY y) b.1.val) = true }.ncard =
      s.onPixels.ncard + (s.spriteBits n).ncard

/-! ### Keys and timers -/

/-- 44_keys_and_timers.md R130, R131; 60_exceptions.md R145: for `V[x]` a key number, the skip is by that key and nothing
but `pc` changes; above 15 the fault is raised and the index is not masked (the spec's decision D7, log 6). -/
def Obligations.KeySkips : Prop :=
  ∀ (x k : Nibble) (s : State), EncodedBy (.skpVx x) 0xE09E 0xF0FF ∧ EncodedBy (.sknpVx x) 0xE0A1 0xF0FF ∧
    ((s.getV x).toNat = k.toNat →
      exec (.skpVx x) s = .next { s with pc := if s.keyDown k = true then s.pc + 4 else s.pc + 2 } ∧
      exec (.sknpVx x) s = .next { s with pc := if s.keyDown k = false then s.pc + 4 else s.pc + 2 }) ∧
    ((s.getV x).toNat > 15 →
      exec (.skpVx x) s = .fault (.keyIndexOutOfRange (encode (.skpVx x)) s.pc (s.getV x)) ∧
      exec (.sknpVx x) s = .fault (.keyIndexOutOfRange (encode (.sknpVx x)) s.pc (s.getV x)))

/-- 44_keys_and_timers.md R132: the lowest pressed key is loaded (one already down completes it, D21); with none pressed
the step completes and changes nothing (D24; log 14). -/
def Obligations.WaitForKey : Prop :=
  ∀ (x : Nibble) (s : State), EncodedBy (.ldVxK x) 0xF00A 0xF0FF ∧
    (∀ k, s.keyDown k = true → (∀ j, j.toNat < k.toNat → s.keyDown j = false) →
      ∃ t, exec (.ldVxK x) s = .next t ∧ (t.getV x).toNat = k.toNat ∧ t.pc = s.pc + 2 ∧
        Frame { regs := fun z => z = x } s t) ∧
    ((∀ k, s.keyDown k = false) → exec (.ldVxK x) s = .next s)

/-- 44_keys_and_timers.md R133, R134, R135. -/
def Obligations.TimerRegisters : Prop :=
  ∀ (x : Nibble) (s : State),
    (EncodedBy (.ldVxDt x) 0xF007 0xF0FF ∧ ∃ t, exec (.ldVxDt x) s = .next t ∧ t.getV x = s.dt ∧
      t.pc = s.pc + 2 ∧ Frame { regs := fun z => z = x } s t) ∧
    (EncodedBy (.ldDtVx x) 0xF015 0xF0FF ∧
      exec (.ldDtVx x) s = .next { s with dt := s.getV x, pc := s.pc + 2 }) ∧
    (EncodedBy (.ldStVx x) 0xF018 0xF0FF ∧
      exec (.ldStVx x) s = .next { s with st := s.getV x, pc := s.pc + 2 })

/-! ### The whole machine -/

/-- 10_state.md R10, R11, R13 to R18: whatever completes changes only what `mayChange` lists for it. -/
def Obligations.EveryInstructionKeepsItsFrame : Prop :=
  ∀ (i : Instr) (s t : State), exec i s = .next t → Frame (mayChange s i) s t

/-- 10_state.md R17, R18: no step changes the key matrix, and none clears the dirty flag. -/
def Obligations.StepKeepsKeysAndNeverClearsDirty : Prop :=
  ∀ s t : State, step s = .next t → (∀ k, t.keyDown k = s.keyDown k) ∧ (s.dirty = true → t.dirty = true)

/-- 10_state.md R18: only Ex9E, ExA1 and Fx0A read the key matrix. Any other instruction does the same under any keys. -/
def Obligations.KeysReadOnlyByKeyInstructions : Prop :=
  ∀ (i : Instr) (s : State) (keys : Vector Bool 16),
    (∀ x, i ≠ .skpVx x ∧ i ≠ .sknpVx x ∧ i ≠ .ldVxK x) →
    exec i { s with key := keys } = mapNext (fun t => { t with key := keys }) (exec i s)

/-- 41_load_and_alu.md R102: an instruction other than Cxnn ignores the random input (`rndIn` and `draws` are the model's
own fields, log 2). -/
def Obligations.RandomInputReadOnlyByCxnn : Prop :=
  ∀ (i : Instr) (s : State) (l : List Byte) (d : Nat), (∀ x nn, i ≠ .rndVxNn x nn) →
    exec i { s with rndIn := l, draws := d } = mapNext (fun t => { t with rndIn := l, draws := d }) (exec i s)

/-- 60_exceptions.md R152: no instruction reads `ST` or `dirty`: what else a step does is the same under any values of
them. -/
def Obligations.SoundTimerAndDirtyAreNotRead : Prop :=
  ∀ (i : Instr) (s : State) (b : Byte) (d : Bool),
    mapNext (fun t => { t with st := 0, dirty := false }) (exec i { s with st := b, dirty := d }) =
      mapNext (fun t => { t with st := 0, dirty := false }) (exec i s)

/-- The canonical form of memory (log 17, the model's choice): every step from a state that has it keeps it. -/
def Obligations.StepKeepsMemoryCanonical : Prop :=
  ∀ s t : State, s.Inv → step s = .next t → t.Inv

/-- The canonical form of memory holds at reset (log 17, the model's choice). -/
def Obligations.ResetMemoryIsCanonical : Prop := State.reset.Inv

/-- The canonical form of memory holds in every state a host can reach, by any transactions (60_exceptions.md R166; the
form is the model's choice, log 17). -/
def Obligations.ReachableMemoryIsCanonical : Prop := ∀ s : State, Reachable s → s.Inv

/-! ### Reset and the host's transactions -/

/-- 10_state.md R21 and 60_exceptions.md R161: the reset values, of the state after reset and of what the transaction
`Reset` makes of any state (`dirty` is the spec's decision D12, log 10; the font bytes are a parameter, log 1). -/
def Obligations.ResetGivesResetValues : Prop :=
  ResetValues State.reset ∧ ∀ s : State, (transact .reset s).2 = .none ∧ ResetValues (transact .reset s).1

/-- 70_reset_and_hazards.md R171: the first step after reset fetches at 0x0200, where memory is 0, and raises
UnknownInstruction(0x0000, 0x0200). -/
def Obligations.FirstStepWithoutProgramFaults : Prop :=
  State.reset.pc = 0x0200 ∧ State.reset.memRead 0x200 = 0 ∧ State.reset.memRead 0x201 = 0 ∧
    step State.reset = .fault (.unknownInstruction 0x0000 0x0200)

/-- 70_reset_and_hazards.md R173: after `Reset` and `LoadProgram` the first step runs the first word of the program. -/
def Obligations.LoadedProgramRunsFirst : Prop :=
  ∀ (s : State) (hi lo : Byte) (rest : List Byte) (i : Instr), rest.length ≤ 3582 →
    decodeWord (hi ++ lo) = some i →
    step (transactAll [.reset, .loadProgram (hi :: lo :: rest)] s) =
      exec i (transactAll [.reset, .loadProgram (hi :: lo :: rest)] s)

/-- 60_exceptions.md R162, R146: at most 3584 bytes are copied to 0x200 up and nothing else changes (the spec's decision
D17, log 18); more are rejected whole. -/
def Obligations.LoadProgramCopiesOrRejects : Prop :=
  ∀ (bytes : List Byte) (s : State),
    (bytes.length ≤ 3584 → ∃ t, transact (.loadProgram bytes) s = (t, .ok) ∧
      (∀ k (h : k < bytes.length), t.memRead (0x200 + k) = bytes[k]) ∧ t.pc = s.pc ∧
      Frame { bytes := fun a => 0x200 ≤ a ∧ a < 0x200 + bytes.length } s t) ∧
    (3584 < bytes.length → transact (.loadProgram bytes) s = (s, .fault (.capacityError bytes.length)))

/-- 60_exceptions.md R141: a transaction that answers a fault leaves the state as it was (for every fault by the spec's
decision D11, log 9). -/
def Obligations.FaultChangesNothing : Prop :=
  ∀ (t : Transaction) (s : State) (f : Fault), (transact t s).2 = .fault f → (transact t s).1 = s

/-- 60_exceptions.md R141 (b): a faulted core makes no progress until the host calls `Reset` or `LoadProgram`: after any
other transactions, the next step raises the same fault (rests on D11, log 9). -/
def Obligations.FaultRepeatsUntilResetOrLoad : Prop :=
  ∀ (s : State) (r q : Byte) (f : Fault) (ts : List Transaction), (transact (.step r) s).2 = .fault f →
    (∀ t ∈ ts, t.Gentle) → (transact (.step q) (transactAll ts s)).2 = .fault f

/-- 30_encoding.md R50: the random byte of `Step(rnd)` is the one a Cxnn of that step uses, and no other instruction's
step depends on it (that it leaves the model's own fields as they were is log 2). -/
def Obligations.HostStepSuppliesRandomByte : Prop :=
  ∀ (r : Byte) (s : State),
    (∀ x nn, s.Fetches (.rndVxNn x nn) → ∃ t, transact (.step r) s = (t, .ok) ∧ t.getV x = r &&& nn ∧
      t.pc = s.pc + 2 ∧ Frame { regs := fun z => z = x } s t) ∧
    ((∀ x nn, ¬ s.Fetches (.rndVxNn x nn)) →
      (∀ t, step s = .next t → transact (.step r) s = (t, .ok)) ∧
      (∀ f, step s = .fault f → transact (.step r) s = (s, .fault f)))

/-- 60_exceptions.md R163, R164: keys and timers are set, read and counted down by the host; nothing else changes (that a
tick moves both timers is the spec's decision D19, log 19). -/
def Obligations.HostSetsKeysAndTimers : Prop :=
  ∀ (s : State) (k : Nibble) (b : Bool) (n : Byte),
    (∃ t, transact (.setKey k b) s = (t, .none) ∧ t = { s with key := t.key } ∧ t.keyDown k = b ∧
      ∀ j, j ≠ k → t.keyDown j = s.keyDown j) ∧
    transact .getDelay s = (s, .timer s.dt) ∧ transact .getSound s = (s, .timer s.st) ∧
    transact (.setDelay n) s = ({ s with dt := n }, .none) ∧ transact (.setSound n) s = ({ s with st := n }, .none) ∧
    (∃ t, transact .timerTick s = (t, .none) ∧ t = { s with dt := t.dt, st := t.st } ∧
      t.dt.toNat = s.dt.toNat - 1 ∧ t.st.toNat = s.st.toNat - 1)

/-- 60_exceptions.md R165. -/
def Obligations.HostReadsDisplayAndClearsDirty : Prop :=
  ∀ s : State,
    (∃ d, transact .readDisplay s = (s, .display d s.dirty) ∧ ∀ px py, Display.pixel d px py = s.pixel px py) ∧
    transact .clearDirty s = ({ s with dirty := false }, .none) ∧
    (∀ t : Transaction, t ≠ .reset → (∀ r, t ≠ .step r) → ∀ px py, (transact t s).1.pixel px py = s.pixel px py)
end

