-- ==== Sys2Proof/Laws/Decode.lean ====
section
/-! SUPPORT. The fields of an encoded word, format by format, and that every instruction is well formed. -/

namespace Sys2Proof

theorem wellFormed_all (i : Instr) : i.WellFormed := by
  cases i <;> simp [Instr.WellFormed, Instr.line, Line.WellFormed] <;> omega

/-! Numbers of the words, from which every field follows by division. -/

theorem encodeNnn_toNat (op : Nibble) (a : Addr12) : (encodeNnn op a).toNat = op.toNat * 4096 + a.toNat := by
  have := a.isLt
  simp only [encodeNnn, BitVec.toNat_append, Nat.shiftLeft_eq]
  rw [← Nat.shiftLeft_eq, ← Nat.shiftLeft_add_eq_or_of_lt (by omega), Nat.shiftLeft_eq]

theorem encodeXNn_toNat (op x : Nibble) (nn : Byte) :
    (encodeXNn op x nn).toNat = op.toNat * 4096 + x.toNat * 256 + nn.toNat := by
  have := nn.isLt
  have := x.isLt
  simp only [encodeXNn, BitVec.toNat_append]
  rw [← Nat.shiftLeft_add_eq_or_of_lt (by omega), ← Nat.shiftLeft_add_eq_or_of_lt (by omega), Nat.shiftLeft_eq,
    Nat.shiftLeft_eq]
  omega

theorem encodeXYN_toNat (op x y n : Nibble) :
    (encodeXYN op x y n).toNat = op.toNat * 4096 + x.toNat * 256 + y.toNat * 16 + n.toNat := by
  have := n.isLt
  have := y.isLt
  have := x.isLt
  simp only [encodeXYN, BitVec.toNat_append]
  rw [← Nat.shiftLeft_add_eq_or_of_lt (by omega), ← Nat.shiftLeft_add_eq_or_of_lt (by omega),
    ← Nat.shiftLeft_add_eq_or_of_lt (by omega), Nat.shiftLeft_eq, Nat.shiftLeft_eq, Nat.shiftLeft_eq]
  omega

/-! The fields of a word as quotients and remainders of its number (30_encoding.md R52). -/

theorem fieldOp_toNat (w : Word) : (fieldOp w).toNat = w.toNat / 4096 := by
  have := w.isLt
  simp [fieldOp, Nat.shiftRight_eq_div_pow]; omega
theorem fieldX_toNat (w : Word) : (fieldX w).toNat = w.toNat / 256 % 16 := by
  simp [fieldX, Nat.shiftRight_eq_div_pow]
theorem fieldY_toNat (w : Word) : (fieldY w).toNat = w.toNat / 16 % 16 := by
  simp [fieldY, Nat.shiftRight_eq_div_pow]
theorem fieldN_toNat (w : Word) : (fieldN w).toNat = w.toNat % 16 := by
  simp [fieldN]
theorem fieldNn_toNat (w : Word) : (fieldNn w).toNat = w.toNat % 256 := by
  simp [fieldNn]
theorem fieldNnn_toNat (w : Word) : (fieldNnn w).toNat = w.toNat % 4096 := by
  simp [fieldNnn]

/-! Format `NNN`. -/

@[simp] theorem fieldOp_encodeNnn (op : Nibble) (a : Addr12) : fieldOp (encodeNnn op a) = op := by
  have := a.isLt
  apply BitVec.eq_of_toNat_eq; rw [fieldOp_toNat, encodeNnn_toNat]; omega
@[simp] theorem fieldNnn_encodeNnn (op : Nibble) (a : Addr12) : fieldNnn (encodeNnn op a) = a := by
  have := a.isLt
  apply BitVec.eq_of_toNat_eq; rw [fieldNnn_toNat, encodeNnn_toNat]; omega

/-! Formats `XNN` and `X`. -/

@[simp] theorem fieldOp_encodeXNn (op x : Nibble) (nn : Byte) : fieldOp (encodeXNn op x nn) = op := by
  have := x.isLt
  have := nn.isLt
  apply BitVec.eq_of_toNat_eq; rw [fieldOp_toNat, encodeXNn_toNat]; omega
@[simp] theorem fieldX_encodeXNn (op x : Nibble) (nn : Byte) : fieldX (encodeXNn op x nn) = x := by
  have := x.isLt
  have := nn.isLt
  apply BitVec.eq_of_toNat_eq; rw [fieldX_toNat, encodeXNn_toNat]; omega
@[simp] theorem fieldNn_encodeXNn (op x : Nibble) (nn : Byte) : fieldNn (encodeXNn op x nn) = nn := by
  have := nn.isLt
  apply BitVec.eq_of_toNat_eq; rw [fieldNn_toNat, encodeXNn_toNat]; omega

/-! Formats `XYN` and `XY`. -/

@[simp] theorem fieldOp_encodeXYN (op x y n : Nibble) : fieldOp (encodeXYN op x y n) = op := by
  have := x.isLt
  have := y.isLt
  have := n.isLt
  apply BitVec.eq_of_toNat_eq; rw [fieldOp_toNat, encodeXYN_toNat]; omega
@[simp] theorem fieldX_encodeXYN (op x y n : Nibble) : fieldX (encodeXYN op x y n) = x := by
  have := x.isLt
  have := y.isLt
  have := n.isLt
  apply BitVec.eq_of_toNat_eq; rw [fieldX_toNat, encodeXYN_toNat]; omega
@[simp] theorem fieldY_encodeXYN (op x y n : Nibble) : fieldY (encodeXYN op x y n) = y := by
  have := y.isLt
  have := n.isLt
  apply BitVec.eq_of_toNat_eq; rw [fieldY_toNat, encodeXYN_toNat]; omega
@[simp] theorem fieldN_encodeXYN (op x y n : Nibble) : fieldN (encodeXYN op x y n) = n := by
  have := n.isLt
  apply BitVec.eq_of_toNat_eq; rw [fieldN_toNat, encodeXYN_toNat]; omega

end Sys2Proof
end

