-- ==== Sys2Proof/Laws/State.lean ====
section
/-! SUPPORT. One lemma per field, and per accessor, of each state update: what the update leaves alone and what it
writes. Each is true by unfolding, so that no later proof unfolds a record update. -/

namespace Sys2Proof.Machine

/-! ### `setPc` -/

@[simp] theorem State.setPc_v (s : State) (t : Word) : (s.setPc t).v = s.v := rfl
@[simp] theorem State.setPc_pc (s : State) (t : Word) : (s.setPc t).pc = t := rfl
@[simp] theorem State.setPc_i (s : State) (t : Word) : (s.setPc t).i = s.i := rfl
@[simp] theorem State.setPc_sp (s : State) (t : Word) : (s.setPc t).sp = s.sp := rfl
@[simp] theorem State.setPc_stack (s : State) (t : Word) : (s.setPc t).stack = s.stack := rfl
@[simp] theorem State.setPc_dt (s : State) (t : Word) : (s.setPc t).dt = s.dt := rfl
@[simp] theorem State.setPc_st (s : State) (t : Word) : (s.setPc t).st = s.st := rfl
@[simp] theorem State.setPc_disp (s : State) (t : Word) : (s.setPc t).disp = s.disp := rfl
@[simp] theorem State.setPc_dirty (s : State) (t : Word) : (s.setPc t).dirty = s.dirty := rfl
@[simp] theorem State.setPc_key (s : State) (t : Word) : (s.setPc t).key = s.key := rfl
@[simp] theorem State.setPc_mem (s : State) (t : Word) : (s.setPc t).mem = s.mem := rfl
@[simp] theorem State.setPc_rndIn (s : State) (t : Word) : (s.setPc t).rndIn = s.rndIn := rfl
@[simp] theorem State.setPc_draws (s : State) (t : Word) : (s.setPc t).draws = s.draws := rfl
@[simp] theorem State.setPc_getV (s : State) (t : Word) (z : Nibble) : (s.setPc t).getV z = s.getV z := rfl
@[simp] theorem State.setPc_memRead (s : State) (t : Word) (a : Nat) : (s.setPc t).memRead a = s.memRead a := rfl
@[simp] theorem State.setPc_keyDown (s : State) (t : Word) (k : Nibble) : (s.setPc t).keyDown k = s.keyDown k := rfl
@[simp] theorem State.setPc_pixel (s : State) (t : Word) (px : Fin 64) (py : Fin 32) : (s.setPc t).pixel px py = s.pixel px py := rfl
@[simp] theorem State.setPc_ea (s : State) (t : Word) (n : Nat) : (s.setPc t).ea n = s.ea n := rfl
@[simp] theorem State.setPc_firstKey (s : State) (t : Word) : (s.setPc t).firstKey = s.firstKey := rfl
@[simp] theorem State.setPc_rnd (s : State) (t : Word) : (s.setPc t).rnd = s.rnd := rfl

/-! ### `advance` -/

@[simp] theorem State.advance_v (s : State) : (s.advance).v = s.v := rfl
@[simp] theorem State.advance_pc (s : State) : (s.advance).pc = s.pc + 2 := rfl
@[simp] theorem State.advance_i (s : State) : (s.advance).i = s.i := rfl
@[simp] theorem State.advance_sp (s : State) : (s.advance).sp = s.sp := rfl
@[simp] theorem State.advance_stack (s : State) : (s.advance).stack = s.stack := rfl
@[simp] theorem State.advance_dt (s : State) : (s.advance).dt = s.dt := rfl
@[simp] theorem State.advance_st (s : State) : (s.advance).st = s.st := rfl
@[simp] theorem State.advance_disp (s : State) : (s.advance).disp = s.disp := rfl
@[simp] theorem State.advance_dirty (s : State) : (s.advance).dirty = s.dirty := rfl
@[simp] theorem State.advance_key (s : State) : (s.advance).key = s.key := rfl
@[simp] theorem State.advance_mem (s : State) : (s.advance).mem = s.mem := rfl
@[simp] theorem State.advance_rndIn (s : State) : (s.advance).rndIn = s.rndIn := rfl
@[simp] theorem State.advance_draws (s : State) : (s.advance).draws = s.draws := rfl
@[simp] theorem State.advance_getV (s : State) (z : Nibble) : (s.advance).getV z = s.getV z := rfl
@[simp] theorem State.advance_memRead (s : State) (a : Nat) : (s.advance).memRead a = s.memRead a := rfl
@[simp] theorem State.advance_keyDown (s : State) (k : Nibble) : (s.advance).keyDown k = s.keyDown k := rfl
@[simp] theorem State.advance_pixel (s : State) (px : Fin 64) (py : Fin 32) : (s.advance).pixel px py = s.pixel px py := rfl
@[simp] theorem State.advance_ea (s : State) (n : Nat) : (s.advance).ea n = s.ea n := rfl
@[simp] theorem State.advance_firstKey (s : State) : (s.advance).firstKey = s.firstKey := rfl
@[simp] theorem State.advance_rnd (s : State) : (s.advance).rnd = s.rnd := rfl

/-! ### `skipIf` -/

@[simp] theorem State.skipIf_v (s : State) (c : Bool) : (s.skipIf c).v = s.v := rfl
@[simp] theorem State.skipIf_pc (s : State) (c : Bool) : (s.skipIf c).pc = (if c then s.pc + 4 else s.pc + 2) := rfl
@[simp] theorem State.skipIf_i (s : State) (c : Bool) : (s.skipIf c).i = s.i := rfl
@[simp] theorem State.skipIf_sp (s : State) (c : Bool) : (s.skipIf c).sp = s.sp := rfl
@[simp] theorem State.skipIf_stack (s : State) (c : Bool) : (s.skipIf c).stack = s.stack := rfl
@[simp] theorem State.skipIf_dt (s : State) (c : Bool) : (s.skipIf c).dt = s.dt := rfl
@[simp] theorem State.skipIf_st (s : State) (c : Bool) : (s.skipIf c).st = s.st := rfl
@[simp] theorem State.skipIf_disp (s : State) (c : Bool) : (s.skipIf c).disp = s.disp := rfl
@[simp] theorem State.skipIf_dirty (s : State) (c : Bool) : (s.skipIf c).dirty = s.dirty := rfl
@[simp] theorem State.skipIf_key (s : State) (c : Bool) : (s.skipIf c).key = s.key := rfl
@[simp] theorem State.skipIf_mem (s : State) (c : Bool) : (s.skipIf c).mem = s.mem := rfl
@[simp] theorem State.skipIf_rndIn (s : State) (c : Bool) : (s.skipIf c).rndIn = s.rndIn := rfl
@[simp] theorem State.skipIf_draws (s : State) (c : Bool) : (s.skipIf c).draws = s.draws := rfl
@[simp] theorem State.skipIf_getV (s : State) (c : Bool) (z : Nibble) : (s.skipIf c).getV z = s.getV z := rfl
@[simp] theorem State.skipIf_memRead (s : State) (c : Bool) (a : Nat) : (s.skipIf c).memRead a = s.memRead a := rfl
@[simp] theorem State.skipIf_keyDown (s : State) (c : Bool) (k : Nibble) : (s.skipIf c).keyDown k = s.keyDown k := rfl
@[simp] theorem State.skipIf_pixel (s : State) (c : Bool) (px : Fin 64) (py : Fin 32) : (s.skipIf c).pixel px py = s.pixel px py := rfl
@[simp] theorem State.skipIf_ea (s : State) (c : Bool) (n : Nat) : (s.skipIf c).ea n = s.ea n := rfl
@[simp] theorem State.skipIf_firstKey (s : State) (c : Bool) : (s.skipIf c).firstKey = s.firstKey := rfl
@[simp] theorem State.skipIf_rnd (s : State) (c : Bool) : (s.skipIf c).rnd = s.rnd := rfl

/-! ### `setI` -/

@[simp] theorem State.setI_v (s : State) (t : Word) : (s.setI t).v = s.v := rfl
@[simp] theorem State.setI_pc (s : State) (t : Word) : (s.setI t).pc = s.pc := rfl
@[simp] theorem State.setI_i (s : State) (t : Word) : (s.setI t).i = t := rfl
@[simp] theorem State.setI_sp (s : State) (t : Word) : (s.setI t).sp = s.sp := rfl
@[simp] theorem State.setI_stack (s : State) (t : Word) : (s.setI t).stack = s.stack := rfl
@[simp] theorem State.setI_dt (s : State) (t : Word) : (s.setI t).dt = s.dt := rfl
@[simp] theorem State.setI_st (s : State) (t : Word) : (s.setI t).st = s.st := rfl
@[simp] theorem State.setI_disp (s : State) (t : Word) : (s.setI t).disp = s.disp := rfl
@[simp] theorem State.setI_dirty (s : State) (t : Word) : (s.setI t).dirty = s.dirty := rfl
@[simp] theorem State.setI_key (s : State) (t : Word) : (s.setI t).key = s.key := rfl
@[simp] theorem State.setI_mem (s : State) (t : Word) : (s.setI t).mem = s.mem := rfl
@[simp] theorem State.setI_rndIn (s : State) (t : Word) : (s.setI t).rndIn = s.rndIn := rfl
@[simp] theorem State.setI_draws (s : State) (t : Word) : (s.setI t).draws = s.draws := rfl
@[simp] theorem State.setI_getV (s : State) (t : Word) (z : Nibble) : (s.setI t).getV z = s.getV z := rfl
@[simp] theorem State.setI_memRead (s : State) (t : Word) (a : Nat) : (s.setI t).memRead a = s.memRead a := rfl
@[simp] theorem State.setI_keyDown (s : State) (t : Word) (k : Nibble) : (s.setI t).keyDown k = s.keyDown k := rfl
@[simp] theorem State.setI_pixel (s : State) (t : Word) (px : Fin 64) (py : Fin 32) : (s.setI t).pixel px py = s.pixel px py := rfl
@[simp] theorem State.setI_firstKey (s : State) (t : Word) : (s.setI t).firstKey = s.firstKey := rfl
@[simp] theorem State.setI_rnd (s : State) (t : Word) : (s.setI t).rnd = s.rnd := rfl

/-! ### `setDt` -/

@[simp] theorem State.setDt_v (s : State) (b : Byte) : (s.setDt b).v = s.v := rfl
@[simp] theorem State.setDt_pc (s : State) (b : Byte) : (s.setDt b).pc = s.pc := rfl
@[simp] theorem State.setDt_i (s : State) (b : Byte) : (s.setDt b).i = s.i := rfl
@[simp] theorem State.setDt_sp (s : State) (b : Byte) : (s.setDt b).sp = s.sp := rfl
@[simp] theorem State.setDt_stack (s : State) (b : Byte) : (s.setDt b).stack = s.stack := rfl
@[simp] theorem State.setDt_dt (s : State) (b : Byte) : (s.setDt b).dt = b := rfl
@[simp] theorem State.setDt_st (s : State) (b : Byte) : (s.setDt b).st = s.st := rfl
@[simp] theorem State.setDt_disp (s : State) (b : Byte) : (s.setDt b).disp = s.disp := rfl
@[simp] theorem State.setDt_dirty (s : State) (b : Byte) : (s.setDt b).dirty = s.dirty := rfl
@[simp] theorem State.setDt_key (s : State) (b : Byte) : (s.setDt b).key = s.key := rfl
@[simp] theorem State.setDt_mem (s : State) (b : Byte) : (s.setDt b).mem = s.mem := rfl
@[simp] theorem State.setDt_rndIn (s : State) (b : Byte) : (s.setDt b).rndIn = s.rndIn := rfl
@[simp] theorem State.setDt_draws (s : State) (b : Byte) : (s.setDt b).draws = s.draws := rfl
@[simp] theorem State.setDt_getV (s : State) (b : Byte) (z : Nibble) : (s.setDt b).getV z = s.getV z := rfl
@[simp] theorem State.setDt_memRead (s : State) (b : Byte) (a : Nat) : (s.setDt b).memRead a = s.memRead a := rfl
@[simp] theorem State.setDt_keyDown (s : State) (b : Byte) (k : Nibble) : (s.setDt b).keyDown k = s.keyDown k := rfl
@[simp] theorem State.setDt_pixel (s : State) (b : Byte) (px : Fin 64) (py : Fin 32) : (s.setDt b).pixel px py = s.pixel px py := rfl
@[simp] theorem State.setDt_ea (s : State) (b : Byte) (n : Nat) : (s.setDt b).ea n = s.ea n := rfl
@[simp] theorem State.setDt_firstKey (s : State) (b : Byte) : (s.setDt b).firstKey = s.firstKey := rfl
@[simp] theorem State.setDt_rnd (s : State) (b : Byte) : (s.setDt b).rnd = s.rnd := rfl

/-! ### `setSt` -/

@[simp] theorem State.setSt_v (s : State) (b : Byte) : (s.setSt b).v = s.v := rfl
@[simp] theorem State.setSt_pc (s : State) (b : Byte) : (s.setSt b).pc = s.pc := rfl
@[simp] theorem State.setSt_i (s : State) (b : Byte) : (s.setSt b).i = s.i := rfl
@[simp] theorem State.setSt_sp (s : State) (b : Byte) : (s.setSt b).sp = s.sp := rfl
@[simp] theorem State.setSt_stack (s : State) (b : Byte) : (s.setSt b).stack = s.stack := rfl
@[simp] theorem State.setSt_dt (s : State) (b : Byte) : (s.setSt b).dt = s.dt := rfl
@[simp] theorem State.setSt_st (s : State) (b : Byte) : (s.setSt b).st = b := rfl
@[simp] theorem State.setSt_disp (s : State) (b : Byte) : (s.setSt b).disp = s.disp := rfl
@[simp] theorem State.setSt_dirty (s : State) (b : Byte) : (s.setSt b).dirty = s.dirty := rfl
@[simp] theorem State.setSt_key (s : State) (b : Byte) : (s.setSt b).key = s.key := rfl
@[simp] theorem State.setSt_mem (s : State) (b : Byte) : (s.setSt b).mem = s.mem := rfl
@[simp] theorem State.setSt_rndIn (s : State) (b : Byte) : (s.setSt b).rndIn = s.rndIn := rfl
@[simp] theorem State.setSt_draws (s : State) (b : Byte) : (s.setSt b).draws = s.draws := rfl
@[simp] theorem State.setSt_getV (s : State) (b : Byte) (z : Nibble) : (s.setSt b).getV z = s.getV z := rfl
@[simp] theorem State.setSt_memRead (s : State) (b : Byte) (a : Nat) : (s.setSt b).memRead a = s.memRead a := rfl
@[simp] theorem State.setSt_keyDown (s : State) (b : Byte) (k : Nibble) : (s.setSt b).keyDown k = s.keyDown k := rfl
@[simp] theorem State.setSt_pixel (s : State) (b : Byte) (px : Fin 64) (py : Fin 32) : (s.setSt b).pixel px py = s.pixel px py := rfl
@[simp] theorem State.setSt_ea (s : State) (b : Byte) (n : Nat) : (s.setSt b).ea n = s.ea n := rfl
@[simp] theorem State.setSt_firstKey (s : State) (b : Byte) : (s.setSt b).firstKey = s.firstKey := rfl
@[simp] theorem State.setSt_rnd (s : State) (b : Byte) : (s.setSt b).rnd = s.rnd := rfl

/-! ### `setV` -/

@[simp] theorem State.setV_pc (s : State) (x : Nibble) (b : Byte) : (s.setV x b).pc = s.pc := rfl
@[simp] theorem State.setV_i (s : State) (x : Nibble) (b : Byte) : (s.setV x b).i = s.i := rfl
@[simp] theorem State.setV_sp (s : State) (x : Nibble) (b : Byte) : (s.setV x b).sp = s.sp := rfl
@[simp] theorem State.setV_stack (s : State) (x : Nibble) (b : Byte) : (s.setV x b).stack = s.stack := rfl
@[simp] theorem State.setV_dt (s : State) (x : Nibble) (b : Byte) : (s.setV x b).dt = s.dt := rfl
@[simp] theorem State.setV_st (s : State) (x : Nibble) (b : Byte) : (s.setV x b).st = s.st := rfl
@[simp] theorem State.setV_disp (s : State) (x : Nibble) (b : Byte) : (s.setV x b).disp = s.disp := rfl
@[simp] theorem State.setV_dirty (s : State) (x : Nibble) (b : Byte) : (s.setV x b).dirty = s.dirty := rfl
@[simp] theorem State.setV_key (s : State) (x : Nibble) (b : Byte) : (s.setV x b).key = s.key := rfl
@[simp] theorem State.setV_mem (s : State) (x : Nibble) (b : Byte) : (s.setV x b).mem = s.mem := rfl
@[simp] theorem State.setV_rndIn (s : State) (x : Nibble) (b : Byte) : (s.setV x b).rndIn = s.rndIn := rfl
@[simp] theorem State.setV_draws (s : State) (x : Nibble) (b : Byte) : (s.setV x b).draws = s.draws := rfl
@[simp] theorem State.setV_memRead (s : State) (x : Nibble) (b : Byte) (a : Nat) : (s.setV x b).memRead a = s.memRead a := rfl
@[simp] theorem State.setV_keyDown (s : State) (x : Nibble) (b : Byte) (k : Nibble) : (s.setV x b).keyDown k = s.keyDown k := rfl
@[simp] theorem State.setV_pixel (s : State) (x : Nibble) (b : Byte) (px : Fin 64) (py : Fin 32) : (s.setV x b).pixel px py = s.pixel px py := rfl
@[simp] theorem State.setV_ea (s : State) (x : Nibble) (b : Byte) (n : Nat) : (s.setV x b).ea n = s.ea n := rfl
@[simp] theorem State.setV_firstKey (s : State) (x : Nibble) (b : Byte) : (s.setV x b).firstKey = s.firstKey := rfl
@[simp] theorem State.setV_rnd (s : State) (x : Nibble) (b : Byte) : (s.setV x b).rnd = s.rnd := rfl

/-! ### `setFlagThenV` -/

@[simp] theorem State.setFlagThenV_pc (s : State) (f : Byte) (x : Nibble) (b : Byte) : (s.setFlagThenV f x b).pc = s.pc := rfl
@[simp] theorem State.setFlagThenV_i (s : State) (f : Byte) (x : Nibble) (b : Byte) : (s.setFlagThenV f x b).i = s.i := rfl
@[simp] theorem State.setFlagThenV_sp (s : State) (f : Byte) (x : Nibble) (b : Byte) : (s.setFlagThenV f x b).sp = s.sp := rfl
@[simp] theorem State.setFlagThenV_stack (s : State) (f : Byte) (x : Nibble) (b : Byte) : (s.setFlagThenV f x b).stack = s.stack := rfl
@[simp] theorem State.setFlagThenV_dt (s : State) (f : Byte) (x : Nibble) (b : Byte) : (s.setFlagThenV f x b).dt = s.dt := rfl
@[simp] theorem State.setFlagThenV_st (s : State) (f : Byte) (x : Nibble) (b : Byte) : (s.setFlagThenV f x b).st = s.st := rfl
@[simp] theorem State.setFlagThenV_disp (s : State) (f : Byte) (x : Nibble) (b : Byte) : (s.setFlagThenV f x b).disp = s.disp := rfl
@[simp] theorem State.setFlagThenV_dirty (s : State) (f : Byte) (x : Nibble) (b : Byte) : (s.setFlagThenV f x b).dirty = s.dirty := rfl
@[simp] theorem State.setFlagThenV_key (s : State) (f : Byte) (x : Nibble) (b : Byte) : (s.setFlagThenV f x b).key = s.key := rfl
@[simp] theorem State.setFlagThenV_mem (s : State) (f : Byte) (x : Nibble) (b : Byte) : (s.setFlagThenV f x b).mem = s.mem := rfl
@[simp] theorem State.setFlagThenV_rndIn (s : State) (f : Byte) (x : Nibble) (b : Byte) : (s.setFlagThenV f x b).rndIn = s.rndIn := rfl
@[simp] theorem State.setFlagThenV_draws (s : State) (f : Byte) (x : Nibble) (b : Byte) : (s.setFlagThenV f x b).draws = s.draws := rfl
@[simp] theorem State.setFlagThenV_memRead (s : State) (f : Byte) (x : Nibble) (b : Byte) (a : Nat) : (s.setFlagThenV f x b).memRead a = s.memRead a := rfl
@[simp] theorem State.setFlagThenV_keyDown (s : State) (f : Byte) (x : Nibble) (b : Byte) (k : Nibble) : (s.setFlagThenV f x b).keyDown k = s.keyDown k := rfl
@[simp] theorem State.setFlagThenV_pixel (s : State) (f : Byte) (x : Nibble) (b : Byte) (px : Fin 64) (py : Fin 32) : (s.setFlagThenV f x b).pixel px py = s.pixel px py := rfl
@[simp] theorem State.setFlagThenV_ea (s : State) (f : Byte) (x : Nibble) (b : Byte) (n : Nat) : (s.setFlagThenV f x b).ea n = s.ea n := rfl
@[simp] theorem State.setFlagThenV_firstKey (s : State) (f : Byte) (x : Nibble) (b : Byte) : (s.setFlagThenV f x b).firstKey = s.firstKey := rfl
@[simp] theorem State.setFlagThenV_rnd (s : State) (f : Byte) (x : Nibble) (b : Byte) : (s.setFlagThenV f x b).rnd = s.rnd := rfl

/-! ### `setDisplay` -/

@[simp] theorem State.setDisplay_v (s : State) (d : Display) : (s.setDisplay d).v = s.v := rfl
@[simp] theorem State.setDisplay_pc (s : State) (d : Display) : (s.setDisplay d).pc = s.pc := rfl
@[simp] theorem State.setDisplay_i (s : State) (d : Display) : (s.setDisplay d).i = s.i := rfl
@[simp] theorem State.setDisplay_sp (s : State) (d : Display) : (s.setDisplay d).sp = s.sp := rfl
@[simp] theorem State.setDisplay_stack (s : State) (d : Display) : (s.setDisplay d).stack = s.stack := rfl
@[simp] theorem State.setDisplay_dt (s : State) (d : Display) : (s.setDisplay d).dt = s.dt := rfl
@[simp] theorem State.setDisplay_st (s : State) (d : Display) : (s.setDisplay d).st = s.st := rfl
@[simp] theorem State.setDisplay_disp (s : State) (d : Display) : (s.setDisplay d).disp = d := rfl
@[simp] theorem State.setDisplay_dirty (s : State) (d : Display) : (s.setDisplay d).dirty = true := rfl
@[simp] theorem State.setDisplay_key (s : State) (d : Display) : (s.setDisplay d).key = s.key := rfl
@[simp] theorem State.setDisplay_mem (s : State) (d : Display) : (s.setDisplay d).mem = s.mem := rfl
@[simp] theorem State.setDisplay_rndIn (s : State) (d : Display) : (s.setDisplay d).rndIn = s.rndIn := rfl
@[simp] theorem State.setDisplay_draws (s : State) (d : Display) : (s.setDisplay d).draws = s.draws := rfl
@[simp] theorem State.setDisplay_getV (s : State) (d : Display) (z : Nibble) : (s.setDisplay d).getV z = s.getV z := rfl
@[simp] theorem State.setDisplay_memRead (s : State) (d : Display) (a : Nat) : (s.setDisplay d).memRead a = s.memRead a := rfl
@[simp] theorem State.setDisplay_keyDown (s : State) (d : Display) (k : Nibble) : (s.setDisplay d).keyDown k = s.keyDown k := rfl
@[simp] theorem State.setDisplay_ea (s : State) (d : Display) (n : Nat) : (s.setDisplay d).ea n = s.ea n := rfl
@[simp] theorem State.setDisplay_firstKey (s : State) (d : Display) : (s.setDisplay d).firstKey = s.firstKey := rfl
@[simp] theorem State.setDisplay_rnd (s : State) (d : Display) : (s.setDisplay d).rnd = s.rnd := rfl

/-! ### `setKey` -/

@[simp] theorem State.setKey_v (s : State) (j : Nibble) (b : Bool) : (s.setKey j b).v = s.v := rfl
@[simp] theorem State.setKey_pc (s : State) (j : Nibble) (b : Bool) : (s.setKey j b).pc = s.pc := rfl
@[simp] theorem State.setKey_i (s : State) (j : Nibble) (b : Bool) : (s.setKey j b).i = s.i := rfl
@[simp] theorem State.setKey_sp (s : State) (j : Nibble) (b : Bool) : (s.setKey j b).sp = s.sp := rfl
@[simp] theorem State.setKey_stack (s : State) (j : Nibble) (b : Bool) : (s.setKey j b).stack = s.stack := rfl
@[simp] theorem State.setKey_dt (s : State) (j : Nibble) (b : Bool) : (s.setKey j b).dt = s.dt := rfl
@[simp] theorem State.setKey_st (s : State) (j : Nibble) (b : Bool) : (s.setKey j b).st = s.st := rfl
@[simp] theorem State.setKey_disp (s : State) (j : Nibble) (b : Bool) : (s.setKey j b).disp = s.disp := rfl
@[simp] theorem State.setKey_dirty (s : State) (j : Nibble) (b : Bool) : (s.setKey j b).dirty = s.dirty := rfl
@[simp] theorem State.setKey_mem (s : State) (j : Nibble) (b : Bool) : (s.setKey j b).mem = s.mem := rfl
@[simp] theorem State.setKey_rndIn (s : State) (j : Nibble) (b : Bool) : (s.setKey j b).rndIn = s.rndIn := rfl
@[simp] theorem State.setKey_draws (s : State) (j : Nibble) (b : Bool) : (s.setKey j b).draws = s.draws := rfl
@[simp] theorem State.setKey_getV (s : State) (j : Nibble) (b : Bool) (z : Nibble) : (s.setKey j b).getV z = s.getV z := rfl
@[simp] theorem State.setKey_memRead (s : State) (j : Nibble) (b : Bool) (a : Nat) : (s.setKey j b).memRead a = s.memRead a := rfl
@[simp] theorem State.setKey_pixel (s : State) (j : Nibble) (b : Bool) (px : Fin 64) (py : Fin 32) : (s.setKey j b).pixel px py = s.pixel px py := rfl
@[simp] theorem State.setKey_ea (s : State) (j : Nibble) (b : Bool) (n : Nat) : (s.setKey j b).ea n = s.ea n := rfl
@[simp] theorem State.setKey_rnd (s : State) (j : Nibble) (b : Bool) : (s.setKey j b).rnd = s.rnd := rfl

/-! ### `memWrite` -/

@[simp] theorem State.memWrite_v (s : State) (n : Nat) (b : Byte) : (s.memWrite n b).v = s.v := rfl
@[simp] theorem State.memWrite_pc (s : State) (n : Nat) (b : Byte) : (s.memWrite n b).pc = s.pc := rfl
@[simp] theorem State.memWrite_i (s : State) (n : Nat) (b : Byte) : (s.memWrite n b).i = s.i := rfl
@[simp] theorem State.memWrite_sp (s : State) (n : Nat) (b : Byte) : (s.memWrite n b).sp = s.sp := rfl
@[simp] theorem State.memWrite_stack (s : State) (n : Nat) (b : Byte) : (s.memWrite n b).stack = s.stack := rfl
@[simp] theorem State.memWrite_dt (s : State) (n : Nat) (b : Byte) : (s.memWrite n b).dt = s.dt := rfl
@[simp] theorem State.memWrite_st (s : State) (n : Nat) (b : Byte) : (s.memWrite n b).st = s.st := rfl
@[simp] theorem State.memWrite_disp (s : State) (n : Nat) (b : Byte) : (s.memWrite n b).disp = s.disp := rfl
@[simp] theorem State.memWrite_dirty (s : State) (n : Nat) (b : Byte) : (s.memWrite n b).dirty = s.dirty := rfl
@[simp] theorem State.memWrite_key (s : State) (n : Nat) (b : Byte) : (s.memWrite n b).key = s.key := rfl
@[simp] theorem State.memWrite_rndIn (s : State) (n : Nat) (b : Byte) : (s.memWrite n b).rndIn = s.rndIn := rfl
@[simp] theorem State.memWrite_draws (s : State) (n : Nat) (b : Byte) : (s.memWrite n b).draws = s.draws := rfl
@[simp] theorem State.memWrite_getV (s : State) (n : Nat) (b : Byte) (z : Nibble) : (s.memWrite n b).getV z = s.getV z := rfl
@[simp] theorem State.memWrite_keyDown (s : State) (n : Nat) (b : Byte) (k : Nibble) : (s.memWrite n b).keyDown k = s.keyDown k := rfl
@[simp] theorem State.memWrite_pixel (s : State) (n : Nat) (b : Byte) (px : Fin 64) (py : Fin 32) : (s.memWrite n b).pixel px py = s.pixel px py := rfl
@[simp] theorem State.memWrite_ea (s : State) (n : Nat) (b : Byte) (k : Nat) : (s.memWrite n b).ea k = s.ea k := rfl
@[simp] theorem State.memWrite_firstKey (s : State) (n : Nat) (b : Byte) : (s.memWrite n b).firstKey = s.firstKey := rfl
@[simp] theorem State.memWrite_rnd (s : State) (n : Nat) (b : Byte) : (s.memWrite n b).rnd = s.rnd := rfl

/-! ### `clearDirty` -/

@[simp] theorem State.clearDirty_v (s : State) : (s.clearDirty).v = s.v := rfl
@[simp] theorem State.clearDirty_pc (s : State) : (s.clearDirty).pc = s.pc := rfl
@[simp] theorem State.clearDirty_i (s : State) : (s.clearDirty).i = s.i := rfl
@[simp] theorem State.clearDirty_sp (s : State) : (s.clearDirty).sp = s.sp := rfl
@[simp] theorem State.clearDirty_stack (s : State) : (s.clearDirty).stack = s.stack := rfl
@[simp] theorem State.clearDirty_dt (s : State) : (s.clearDirty).dt = s.dt := rfl
@[simp] theorem State.clearDirty_st (s : State) : (s.clearDirty).st = s.st := rfl
@[simp] theorem State.clearDirty_disp (s : State) : (s.clearDirty).disp = s.disp := rfl
@[simp] theorem State.clearDirty_dirty (s : State) : (s.clearDirty).dirty = false := rfl
@[simp] theorem State.clearDirty_key (s : State) : (s.clearDirty).key = s.key := rfl
@[simp] theorem State.clearDirty_mem (s : State) : (s.clearDirty).mem = s.mem := rfl
@[simp] theorem State.clearDirty_rndIn (s : State) : (s.clearDirty).rndIn = s.rndIn := rfl
@[simp] theorem State.clearDirty_draws (s : State) : (s.clearDirty).draws = s.draws := rfl
@[simp] theorem State.clearDirty_getV (s : State) (z : Nibble) : (s.clearDirty).getV z = s.getV z := rfl
@[simp] theorem State.clearDirty_memRead (s : State) (a : Nat) : (s.clearDirty).memRead a = s.memRead a := rfl
@[simp] theorem State.clearDirty_keyDown (s : State) (k : Nibble) : (s.clearDirty).keyDown k = s.keyDown k := rfl
@[simp] theorem State.clearDirty_pixel (s : State) (px : Fin 64) (py : Fin 32) : (s.clearDirty).pixel px py = s.pixel px py := rfl
@[simp] theorem State.clearDirty_ea (s : State) (n : Nat) : (s.clearDirty).ea n = s.ea n := rfl
@[simp] theorem State.clearDirty_firstKey (s : State) : (s.clearDirty).firstKey = s.firstKey := rfl
@[simp] theorem State.clearDirty_rnd (s : State) : (s.clearDirty).rnd = s.rnd := rfl

/-! ### `memWriteAll`, and `rndUsed` (by cases on the offered bytes) -/

@[simp] theorem State.memWriteAll_v (s : State) (n : Nat) (bs : List Byte) : (s.memWriteAll n bs).v = s.v := rfl
@[simp] theorem State.memWriteAll_pc (s : State) (n : Nat) (bs : List Byte) : (s.memWriteAll n bs).pc = s.pc := rfl
@[simp] theorem State.memWriteAll_i (s : State) (n : Nat) (bs : List Byte) : (s.memWriteAll n bs).i = s.i := rfl
@[simp] theorem State.memWriteAll_sp (s : State) (n : Nat) (bs : List Byte) : (s.memWriteAll n bs).sp = s.sp := rfl
@[simp] theorem State.memWriteAll_stack (s : State) (n : Nat) (bs : List Byte) : (s.memWriteAll n bs).stack = s.stack := rfl
@[simp] theorem State.memWriteAll_dt (s : State) (n : Nat) (bs : List Byte) : (s.memWriteAll n bs).dt = s.dt := rfl
@[simp] theorem State.memWriteAll_st (s : State) (n : Nat) (bs : List Byte) : (s.memWriteAll n bs).st = s.st := rfl
@[simp] theorem State.memWriteAll_disp (s : State) (n : Nat) (bs : List Byte) : (s.memWriteAll n bs).disp = s.disp := rfl
@[simp] theorem State.memWriteAll_dirty (s : State) (n : Nat) (bs : List Byte) : (s.memWriteAll n bs).dirty = s.dirty := rfl
@[simp] theorem State.memWriteAll_key (s : State) (n : Nat) (bs : List Byte) : (s.memWriteAll n bs).key = s.key := rfl
@[simp] theorem State.memWriteAll_rndIn (s : State) (n : Nat) (bs : List Byte) : (s.memWriteAll n bs).rndIn = s.rndIn := rfl
@[simp] theorem State.memWriteAll_draws (s : State) (n : Nat) (bs : List Byte) : (s.memWriteAll n bs).draws = s.draws := rfl
@[simp] theorem State.memWriteAll_getV (s : State) (n : Nat) (bs : List Byte) (z : Nibble) :
    (s.memWriteAll n bs).getV z = s.getV z := rfl
@[simp] theorem State.memWriteAll_keyDown (s : State) (n : Nat) (bs : List Byte) (k : Nibble) :
    (s.memWriteAll n bs).keyDown k = s.keyDown k := rfl
@[simp] theorem State.memWriteAll_pixel (s : State) (n : Nat) (bs : List Byte) (px : Fin 64) (py : Fin 32) :
    (s.memWriteAll n bs).pixel px py = s.pixel px py := rfl
@[simp] theorem State.memWriteAll_ea (s : State) (n : Nat) (bs : List Byte) (k : Nat) :
    (s.memWriteAll n bs).ea k = s.ea k := rfl
@[simp] theorem State.memWriteAll_firstKey (s : State) (n : Nat) (bs : List Byte) :
    (s.memWriteAll n bs).firstKey = s.firstKey := rfl
@[simp] theorem State.memWriteAll_rnd (s : State) (n : Nat) (bs : List Byte) :
    (s.memWriteAll n bs).rnd = s.rnd := rfl
@[simp] theorem State.rndUsed_v (s : State) : s.rndUsed.v = s.v := by
  unfold State.rndUsed; split <;> rfl
@[simp] theorem State.rndUsed_pc (s : State) : s.rndUsed.pc = s.pc := by
  unfold State.rndUsed; split <;> rfl
@[simp] theorem State.rndUsed_i (s : State) : s.rndUsed.i = s.i := by
  unfold State.rndUsed; split <;> rfl
@[simp] theorem State.rndUsed_sp (s : State) : s.rndUsed.sp = s.sp := by
  unfold State.rndUsed; split <;> rfl
@[simp] theorem State.rndUsed_stack (s : State) : s.rndUsed.stack = s.stack := by
  unfold State.rndUsed; split <;> rfl
@[simp] theorem State.rndUsed_dt (s : State) : s.rndUsed.dt = s.dt := by
  unfold State.rndUsed; split <;> rfl
@[simp] theorem State.rndUsed_st (s : State) : s.rndUsed.st = s.st := by
  unfold State.rndUsed; split <;> rfl
@[simp] theorem State.rndUsed_disp (s : State) : s.rndUsed.disp = s.disp := by
  unfold State.rndUsed; split <;> rfl
@[simp] theorem State.rndUsed_dirty (s : State) : s.rndUsed.dirty = s.dirty := by
  unfold State.rndUsed; split <;> rfl
@[simp] theorem State.rndUsed_key (s : State) : s.rndUsed.key = s.key := by
  unfold State.rndUsed; split <;> rfl
@[simp] theorem State.rndUsed_mem (s : State) : s.rndUsed.mem = s.mem := by
  unfold State.rndUsed; split <;> rfl
@[simp] theorem State.rndUsed_getV (s : State) (z : Nibble) : s.rndUsed.getV z = s.getV z := by
  simp [State.getV]
@[simp] theorem State.rndUsed_memRead (s : State) (a : Nat) : s.rndUsed.memRead a = s.memRead a := by
  simp [State.memRead]
@[simp] theorem State.rndUsed_keyDown (s : State) (k : Nibble) : s.rndUsed.keyDown k = s.keyDown k := by
  simp [State.keyDown]
@[simp] theorem State.rndUsed_pixel (s : State) (px : Fin 64) (py : Fin 32) : s.rndUsed.pixel px py = s.pixel px py := by
  simp [State.pixel]
@[simp] theorem State.rndUsed_ea (s : State) (n : Nat) : s.rndUsed.ea n = s.ea n := by
  simp [State.ea]
@[simp] theorem State.rndUsed_firstKey (s : State) : s.rndUsed.firstKey = s.firstKey := by
  simp [State.firstKey]

end Sys2Proof.Machine
end

