-- ==== Sys2Proof/Laws/Memory.lean ====
section
/-! SUPPORT. Memory: read after write, for every memory, and the canonical form that every write keeps. -/

namespace Sys2Proof.Machine

/-! ### Read after write -/

theorem Memory.read_without (m : Memory) (a b : Nat) :
    Memory.read (Memory.without m a) b = if a = b then Memory.unlisted b else Memory.read m b := by
  induction m with
  | nil => simp [Memory.without, Memory.read]
  | cons c m ih =>
    by_cases hc : c.1 = a
    · have : Memory.without (c :: m) a = Memory.without m a := by simp [Memory.without, hc]
      rw [this, ih]
      simp only [Memory.read, hc]
      split <;> rfl
    · have : Memory.without (c :: m) a = c :: Memory.without m a := by simp [Memory.without, hc]
      rw [this]
      simp only [Memory.read, ih]
      by_cases hb : c.1 = b
      · have : a ≠ b := fun h => hc (hb.trans h.symm)
        simp [hb, this]
      · simp [hb]

theorem Memory.read_place (m : Memory) (a b : Nat) (v : Byte) (h : ∀ c ∈ m, c.1 ≠ a) :
    Memory.read (Memory.place m a v) b = if a = b then v else Memory.read m b := by
  induction m with
  | nil => simp [Memory.place, Memory.read]
  | cons c m ih =>
    have hc : c.1 ≠ a := h c (by simp)
    have ih := ih (fun d hd => h d (by simp [hd]))
    simp only [Memory.place]
    split
    · simp [Memory.read]
    · simp only [Memory.read, ih]
      by_cases hb : c.1 = b
      · have : a ≠ b := fun e => hc (hb.trans e.symm)
        simp [hb, this]
      · simp [hb]

theorem Memory.without_ne (m : Memory) (a : Nat) : ∀ c ∈ Memory.without m a, c.1 ≠ a := by
  intro c hc
  simpa using (List.mem_filter.1 hc).2

/-- Read after write, whatever the memory: the byte written at its address, every other byte as before. -/
theorem Memory.read_write (m : Memory) (a b : Nat) (v : Byte) :
    Memory.read (Memory.write m a v) b = if a = b then v else Memory.read m b := by
  unfold Memory.write
  split
  · rename_i hv
    rw [Memory.read_without]
    split
    · rename_i hab; rw [hv, hab]
    · rfl
  · rw [Memory.read_place _ _ _ _ (Memory.without_ne m a), Memory.read_without]
    split <;> rfl

/-! ### The canonical form -/

theorem Memory.wf_nil : Memory.wf [] := by simp [Memory.wf]

theorem Memory.wf_without (m : Memory) (a : Nat) (h : Memory.wf m) : Memory.wf (Memory.without m a) :=
  ⟨h.1.filter _, fun c hc => h.2 c (List.mem_filter.1 hc).1⟩

theorem Memory.mem_place (m : Memory) (a : Nat) (v : Byte) (c : Host.Cell) :
    c ∈ Memory.place m a v ↔ c = (a, v) ∨ c ∈ m := by
  induction m with
  | nil => simp [Memory.place]
  | cons d m ih =>
    simp only [Memory.place]
    split
    · simp
    · simp only [List.mem_cons, ih]; tauto

theorem Memory.pairwise_place (m : Memory) (a : Nat) (v : Byte) (h : m.Pairwise (fun c d => c.1 < d.1))
    (hne : ∀ c ∈ m, c.1 ≠ a) : (Memory.place m a v).Pairwise (fun c d => c.1 < d.1) := by
  induction m with
  | nil => simp [Memory.place]
  | cons c m ih =>
    rw [List.pairwise_cons] at h
    have hc : c.1 ≠ a := hne c (by simp)
    simp only [Memory.place]
    split
    · rename_i hlt
      refine List.pairwise_cons.2 ⟨?_, List.pairwise_cons.2 h⟩
      intro d hd
      rcases List.mem_cons.1 hd with rfl | hd
      · exact hlt
      · exact hlt.trans (h.1 d hd)
    · rename_i hge
      refine List.pairwise_cons.2 ⟨?_, ih h.2 (fun d hd => hne d (by simp [hd]))⟩
      intro d hd
      rcases (Memory.mem_place m a v d).1 hd with rfl | hd
      · show c.1 < a
        omega
      · exact h.1 d hd

/-- A write below 4096 keeps the canonical form. -/
theorem Memory.wf_write (m : Memory) (a : Nat) (v : Byte) (h : Memory.wf m) (ha : a < 4096) :
    Memory.wf (Memory.write m a v) := by
  unfold Memory.write
  split
  · exact Memory.wf_without m a h
  · rename_i hv
    have hw := Memory.wf_without m a h
    refine ⟨Memory.pairwise_place _ _ _ hw.1 (Memory.without_ne m a), ?_⟩
    intro c hc
    rcases (Memory.mem_place _ _ _ _).1 hc with rfl | hc
    · exact ⟨ha, hv⟩
    · exact hw.2 c hc

/-! ### The operations of the state -/

/-- `MemRead` after `MemWrite` (20_memory.md R31, R37): both addresses are taken modulo 4096. -/
theorem State.memRead_memWrite (s : State) (a b : Nat) (v : Byte) :
    (s.memWrite a v).memRead b = if a % 4096 = b % 4096 then v else s.memRead b :=
  Memory.read_write s.mem (a % 4096) (b % 4096) v

theorem State.memWrite_wf (s : State) (a : Nat) (v : Byte) (h : Memory.wf s.mem) :
    Memory.wf (s.memWrite a v).mem :=
  Memory.wf_write s.mem _ v h (Nat.mod_lt _ (by decide))

/-- The first byte, then the others one address up. -/
theorem State.memWriteAll_cons (s : State) (a : Nat) (b : Byte) (bs : List Byte) :
    s.memWriteAll a (b :: bs) = (s.memWrite a b).memWriteAll (a + 1) bs := rfl

theorem State.memWriteAll_wf (s : State) (a : Nat) (bs : List Byte) (h : Memory.wf s.mem) :
    Memory.wf (s.memWriteAll a bs).mem := by
  induction bs generalizing s a with
  | nil => exact h
  | cons b bs ih => exact ih _ _ (State.memWrite_wf s a b h)

/-- Bytes outside the written block read as before. -/
theorem State.memRead_memWriteAll_outside (s : State) (a b : Nat) (bs : List Byte)
    (h : ∀ k < bs.length, b % 4096 ≠ (a + k) % 4096) : (s.memWriteAll a bs).memRead b = s.memRead b := by
  induction bs generalizing s a with
  | nil => rfl
  | cons v bs ih =>
    have h0 : b % 4096 ≠ a % 4096 := by simpa using h 0 (by simp)
    show ((s.memWrite a v).memWriteAll (a + 1) bs).memRead b = _
    rw [ih, State.memRead_memWrite, if_neg (Ne.symm h0)]
    intro k hk
    have := h (k + 1) (by simpa using hk)
    rwa [show a + 1 + k = a + (k + 1) by omega]

/-- The `k`-th byte of the written block reads as the `k`-th byte, if the block is at most the whole memory. -/
theorem State.memRead_memWriteAll_inside (s : State) (a : Nat) (bs : List Byte) (k : Nat) (hk : k < bs.length)
    (hlen : bs.length ≤ 4096) : (s.memWriteAll a bs).memRead (a + k) = bs[k] := by
  induction bs generalizing s a k with
  | nil => simp at hk
  | cons v bs ih =>
    show ((s.memWrite a v).memWriteAll (a + 1) bs).memRead (a + k) = _
    have hlen' : bs.length + 1 ≤ 4096 := by simpa using hlen
    cases k with
    | zero =>
      rw [State.memRead_memWriteAll_outside, State.memRead_memWrite]
      · simp
      · intro j hj
        omega
    | succ k =>
      have hk' : k < bs.length := by simpa using hk
      rw [show a + (k + 1) = a + 1 + k by omega, ih (s.memWrite a v) (a + 1) k hk' (by omega)]
      simp

/-- A read depends on the address modulo 4096 only. -/
theorem State.memRead_mod (s : State) (a b : Nat) (h : a % 4096 = b % 4096) : s.memRead a = s.memRead b := by
  simp [State.memRead, h]

end Sys2Proof.Machine
end

