-- ==== Sys2Proof/Laws/Registers.lean ====
section
/-! SUPPORT. Registers, the call stack, the register block and the keys: one lemma per operation that says all it can
do. -/

namespace Sys2Proof.Machine

/-! ### General registers -/

theorem State.getV_setV (s : State) (x z : Nibble) (b : Byte) :
    (s.setV x b).getV z = if z = x then b else s.getV z := by
  simp only [State.getV, State.setV, Vector.getElem_set]
  by_cases h : z = x
  · simp [h]
  · have : x.toNat ≠ z.toNat := fun e => h (BitVec.eq_of_toNat_eq e.symm)
    simp [h, this]

@[simp] theorem State.getV_setV_self (s : State) (x : Nibble) (b : Byte) : (s.setV x b).getV x = b := by
  simp [State.getV_setV]

theorem State.getV_setV_other (s : State) {x z : Nibble} (b : Byte) (h : z ≠ x) : (s.setV x b).getV z = s.getV z := by
  simp [State.getV_setV, h]

/-- Flag first, result second (41_load_and_alu.md R103). -/
theorem State.getV_setFlagThenV (s : State) (f : Byte) (x z : Nibble) (b : Byte) :
    (s.setFlagThenV f x b).getV z = if z = x then b else if z = 0xF#4 then f else s.getV z := by
  simp [State.setFlagThenV, State.getV_setV, vf]

@[simp] theorem vf_eq : vf = 0xF#4 := rfl

/-! ### The call stack -/

/-- A push succeeds exactly when fewer than 16 addresses are held, and then writes one slot and `sp`. -/
theorem State.push_some (s t : State) (r : Word) :
    s.push r = some t ↔
      ∃ h : s.sp.val < 16, t = { s with stack := s.stack.set s.sp.val r h, sp := ⟨s.sp.val + 1, by omega⟩ } := by
  unfold State.push
  split
  · rename_i h
    simp [h, eq_comm]
  · rename_i h
    simp [h]

theorem State.push_none (s : State) (r : Word) : s.push r = none ↔ s.sp.val = 16 := by
  have := s.sp.isLt
  unfold State.push
  split
  · simp; omega
  · simp; omega

/-- A pop succeeds exactly when an address is held, and then changes `sp` alone. -/
theorem State.pop_some (s t : State) (r : Word) :
    s.pop = some (r, t) ↔
      ∃ h : 0 < s.sp.val, r = s.stack[s.sp.val - 1]'(by have := s.sp.isLt; omega) ∧
        t = { s with sp := ⟨s.sp.val - 1, by have := s.sp.isLt; omega⟩ } := by
  unfold State.pop
  split
  · rename_i h
    simp [h, eq_comm]
  · rename_i h
    simp [h]

theorem State.pop_none (s : State) : s.pop = none ↔ s.sp.val = 0 := by
  unfold State.pop
  split
  · simp; omega
  · simp; omega

/-! ### The register block -/

theorem ofNat_toNat_of_lt {k : Nat} (h : k < 16) : (BitVec.ofNat 4 k).toNat = k := by
  simp [BitVec.toNat_ofNat]; omega

theorem State.blockValues_length (s : State) (x : Nibble) : (s.blockValues x).length = x.toNat + 1 := by
  simp [State.blockValues, blockNumbers]

theorem State.blockValues_getElem (s : State) (x : Nibble) (k : Nat) (h : k < (s.blockValues x).length) :
    (s.blockValues x)[k] = s.getV (BitVec.ofNat 4 k) := by
  simp [State.blockValues, blockNumbers]

/-- Loading registers leaves everything but the registers alone. -/
theorem State.loadBlock_frame (s : State) (l : List Nat) : ∃ w, s.loadBlock l = { s with v := w } := by
  induction l generalizing s with
  | nil => exact ⟨s.v, rfl⟩
  | cons i l ih =>
    obtain ⟨w, hw⟩ := ih (s.setV (BitVec.ofNat 4 i) (s.memRead (s.ea i)))
    exact ⟨w, by rw [State.loadBlock, hw]; rfl⟩

/-- What a register holds after a block load: its byte at `I + i` if it is listed, else what it held. -/
theorem State.getV_loadBlock (s : State) (l : List Nat) (hl : ∀ i ∈ l, i < 16) (z : Nibble) :
    (s.loadBlock l).getV z = if z.toNat ∈ l then s.memRead (s.ea z.toNat) else s.getV z := by
  induction l generalizing s with
  | nil => simp [State.loadBlock]
  | cons i l ih =>
    have hi : i < 16 := hl i (by simp)
    rw [State.loadBlock, ih _ (fun j hj => hl j (by simp [hj]))]
    simp only [State.setV_memRead, State.setV_ea, State.getV_setV, List.mem_cons]
    by_cases hz : z.toNat = i
    · have : z = BitVec.ofNat 4 i := by
        apply BitVec.eq_of_toNat_eq; rw [hz, ofNat_toNat_of_lt hi]
      subst hz
      simp [← this]
    · have : z ≠ BitVec.ofNat 4 i := by
        rintro rfl; exact hz (ofNat_toNat_of_lt hi)
      simp [hz, this]

/-! ### Keys -/

theorem State.keyDown_setKey (s : State) (j k : Nibble) (b : Bool) :
    (s.setKey j b).keyDown k = if k = j then b else s.keyDown k := by
  simp only [State.keyDown, State.setKey, Vector.getElem_set]
  by_cases h : k = j
  · simp [h]
  · have : j.toNat ≠ k.toNat := fun e => h (BitVec.eq_of_toNat_eq e.symm)
    simp [h, this]

theorem mem_keyNumbers (k : Nibble) : k ∈ keyNumbers := by
  simp only [keyNumbers, List.mem_map, List.mem_range]
  exact ⟨k.toNat, k.isLt, by simp⟩

theorem State.firstKey_none (s : State) : s.firstKey = none ↔ ∀ k, s.keyDown k = false := by
  simp [State.firstKey, List.find?_eq_none, mem_keyNumbers]

theorem keyNumbers_sorted : keyNumbers.Pairwise (fun a b => a.toNat < b.toNat) := by decide

/-- The first key is pressed and no smaller one is (44_keys_and_timers.md R132). -/
theorem State.firstKey_some (s : State) (k : Nibble) :
    s.firstKey = some k ↔ s.keyDown k = true ∧ ∀ j, j.toNat < k.toNat → s.keyDown j = false := by
  have key : ∀ l : List Nibble, l.Pairwise (fun a b => a.toNat < b.toNat) → ∀ k,
      l.find? s.keyDown = some k ↔
        k ∈ l ∧ s.keyDown k = true ∧ ∀ j ∈ l, j.toNat < k.toNat → s.keyDown j = false := by
    intro l hl
    induction l with
    | nil => simp
    | cons a l ih =>
      intro k
      rw [List.pairwise_cons] at hl
      rw [List.find?_cons]
      cases ha : s.keyDown a with
      | true =>
        simp only [Option.some.injEq]
        constructor
        · rintro rfl
          refine ⟨by simp, ha, ?_⟩
          intro j hj hlt
          rcases List.mem_cons.1 hj with rfl | hj
          · omega
          · have := hl.1 j hj; omega
        · rintro ⟨hk, -, hmin⟩
          rcases List.mem_cons.1 hk with rfl | hk
          · rfl
          · have := hmin a (by simp) (hl.1 k hk)
            simp [ha] at this
      | false =>
        simp only [ih hl.2 k]
        constructor
        · rintro ⟨hk, hd, hmin⟩
          refine ⟨by simp [hk], hd, ?_⟩
          intro j hj hlt
          rcases List.mem_cons.1 hj with rfl | hj
          · exact ha
          · exact hmin j hj hlt
        · rintro ⟨hk, hd, hmin⟩
          refine ⟨?_, hd, fun j hj => hmin j (by simp [hj])⟩
          rcases List.mem_cons.1 hk with rfl | hk
          · simp [ha] at hd
          · exact hk
  rw [State.firstKey, key _ keyNumbers_sorted]
  simp [mem_keyNumbers]

end Sys2Proof.Machine
end

