-- ==== Sys2Proof/Laws/Display.lean ====
section
/-! SUPPORT. The display: what one pixel holds after a flip, a clear and a whole sprite (43_display.md R121, R122).
A drawing is a list of distinct target pixels, each plotted once. -/

namespace Sys2Proof.Machine

@[simp] theorem Display.pixel_blank (px : Fin 64) (py : Fin 32) : Display.pixel Display.blank px py = false := by
  simp [Display.pixel, Display.blank]

theorem Display.pixel_flip (d : Display) (px qx : Fin 64) (py qy : Fin 32) :
    Display.pixel (Display.flip d px py) qx qy = (Display.pixel d qx qy ^^ decide (qx = px ∧ qy = py)) := by
  simp only [Display.pixel, Display.flip, Vector.getElem_set]
  by_cases hy : qy = py
  · subst hy
    simp only [↓reduceIte, BitVec.getLsbD_xor, BitVec.getLsbD_twoPow, and_true]
    congr 1
    have := px.isLt
    by_cases hx : qx = px
    · simp [hx, this]
    · have : px.val ≠ qx.val := fun e => hx (Fin.ext e.symm)
      simp [hx, this]
  · have : py.val ≠ qy.val := fun e => hy (Fin.ext e.symm)
    simp [hy, this]

/-! ### Plotting a list of pixels -/

/-- Each listed pixel plotted, in order. -/
def Drawing.plots (d : Drawing) (l : List (Fin 64 × Fin 32)) : Drawing := l.foldl (fun d p => d.plot p.1 p.2) d

theorem Drawing.plots_append (d : Drawing) (l m : List (Fin 64 × Fin 32)) :
    d.plots (l ++ m) = (d.plots l).plots m := List.foldl_append

theorem Drawing.pixel_plots (d : Drawing) (l : List (Fin 64 × Fin 32)) (hl : l.Nodup) (px : Fin 64) (py : Fin 32) :
    Display.pixel (d.plots l).disp px py = (Display.pixel d.disp px py ^^ decide ((px, py) ∈ l)) := by
  induction l generalizing d with
  | nil => simp [Drawing.plots]
  | cons p l ih =>
    rw [List.nodup_cons] at hl
    show Display.pixel ((d.plot p.1 p.2).plots l).disp px py = _
    rw [ih _ hl.2]
    simp only [Drawing.plot, Display.pixel_flip, List.mem_cons, Prod.ext_iff]
    by_cases h1 : px = p.1 ∧ py = p.2
    · have : (p.1, p.2) ∉ l := hl.1
      simp [h1, this]
    · simp [h1]

theorem Drawing.hit_plots (d : Drawing) (l : List (Fin 64 × Fin 32)) (hl : l.Nodup) :
    (d.plots l).hit = (d.hit || l.any (fun p => Display.pixel d.disp p.1 p.2)) := by
  induction l generalizing d with
  | nil => simp [Drawing.plots]
  | cons p l ih =>
    rw [List.nodup_cons] at hl
    show ((d.plot p.1 p.2).plots l).hit = _
    rw [ih _ hl.2]
    have : l.any (fun q => Display.pixel (d.plot p.1 p.2).disp q.1 q.2) =
        l.any (fun q => Display.pixel d.disp q.1 q.2) := by
      rw [Bool.eq_iff_iff, List.any_eq_true, List.any_eq_true]
      apply exists_congr
      intro q
      apply and_congr_right
      intro hq
      have : ¬ (q.1 = p.1 ∧ q.2 = p.2) := fun e => hl.1 (by rw [← Prod.ext e.1 e.2]; exact hq)
      simp [Drawing.plot, Display.pixel_flip, this]
    rw [this]
    simp [Drawing.plot, Bool.or_assoc]

/-! ### The target pixels of a sprite -/

/-- The targets of the set bits of one sprite row. -/
def rowTargets (row : Byte) (ox : Nat) (py : Fin 32) (cs : List Nat) : List (Fin 64 × Fin 32) :=
  (cs.filter (spriteBit row)).map (fun c => (columnAt ox c, py))

/-- The targets of the set bits of the sprite that Dxyn draws in state `s`. -/
def State.targets (s : State) (x y n : Nibble) : List (Fin 64 × Fin 32) :=
  (List.range n.toNat).flatMap
    (fun r => rowTargets (s.memRead (s.ea r)) (s.originX x) (rowAt (s.originY y) r) (List.range 8))

theorem Drawing.columns_eq_plots (d : Drawing) (row : Byte) (ox : Nat) (py : Fin 32) (cs : List Nat) :
    d.columns row ox py cs = d.plots (rowTargets row ox py cs) := by
  induction cs generalizing d with
  | nil => rfl
  | cons c cs ih =>
    rw [Drawing.columns, ih]
    by_cases h : spriteBit row c
    · simp [rowTargets, h, Drawing.plots]
    · simp [rowTargets, h]

theorem Drawing.rows_eq_plots (d : Drawing) (s : State) (ox oy : Nat) (rs : List Nat) :
    d.rows s ox oy rs =
      d.plots (rs.flatMap (fun r => rowTargets (s.memRead (s.ea r)) ox (rowAt oy r) (List.range 8))) := by
  induction rs generalizing d with
  | nil => rfl
  | cons r rs ih => rw [Drawing.rows, ih, Drawing.columns_eq_plots, List.flatMap_cons, Drawing.plots_append]

theorem State.drawSprite_eq_plots (s : State) (x y n : Nibble) :
    s.drawSprite x y n = (Drawing.mk s.disp false).plots (s.targets x y n) := Drawing.rows_eq_plots _ _ _ _ _

/-- The eight columns of a row are distinct: 8 is at most 64 (43_display.md R122). -/
theorem columnAt_inj (ox : Nat) {c d : Nat} (hc : c < 8) (hd : d < 8) (h : columnAt ox c = columnAt ox d) : c = d := by
  simp only [columnAt, Fin.mk.injEq] at h
  omega

/-- The rows of a sprite are distinct: 15 is at most 32 (43_display.md R122). -/
theorem rowAt_inj (oy : Nat) {r q : Nat} (hr : r < 16) (hq : q < 16) (h : rowAt oy r = rowAt oy q) : r = q := by
  simp only [rowAt, Fin.mk.injEq] at h
  omega

theorem mem_rowTargets (row : Byte) (ox : Nat) (py : Fin 32) (p : Fin 64 × Fin 32) :
    p ∈ rowTargets row ox py (List.range 8) ↔ ∃ c < 8, spriteBit row c = true ∧ p = (columnAt ox c, py) := by
  simp only [rowTargets, List.mem_map, List.mem_filter, List.mem_range, and_assoc]
  constructor
  · rintro ⟨c, hc, hb, rfl⟩; exact ⟨c, hc, hb, rfl⟩
  · rintro ⟨c, hc, hb, rfl⟩; exact ⟨c, hc, hb, rfl⟩

theorem State.mem_targets (s : State) (x y n : Nibble) (p : Fin 64 × Fin 32) :
    p ∈ s.targets x y n ↔
      ∃ r < n.toNat, ∃ c < 8, spriteBit (s.memRead (s.ea r)) c = true ∧
        p = (columnAt (s.originX x) c, rowAt (s.originY y) r) := by
  simp only [State.targets, List.mem_flatMap, List.mem_range, mem_rowTargets]

theorem State.targets_nodup (s : State) (x y n : Nibble) : (s.targets x y n).Nodup := by
  rw [State.targets, List.nodup_flatMap]
  constructor
  · intro r _
    rw [rowTargets]
    apply List.Nodup.map_on
    · intro c hc d hd h
      rw [List.mem_filter, List.mem_range] at hc hd
      exact columnAt_inj _ hc.1 hd.1 (Prod.ext_iff.1 h).1
    · exact (List.nodup_range).filter _
  · refine (List.nodup_range).pairwise_of_forall_ne ?_
    intro r hr q hq hne p hp hp'
    rw [List.mem_range] at hr hq
    have := n.isLt
    obtain ⟨c, -, -, rfl⟩ := (mem_rowTargets _ _ _ _).1 hp
    obtain ⟨d, -, -, h⟩ := (mem_rowTargets _ _ _ _).1 hp'
    exact hne (rowAt_inj _ (by omega) (by omega) (Prod.ext_iff.1 h).2)

/-- Each pixel after the sprite: flipped if a set sprite bit targets it, else as it was (43_display.md R121, R122). -/
theorem State.pixel_drawSprite (s : State) (x y n : Nibble) (px : Fin 64) (py : Fin 32) :
    Display.pixel (s.drawSprite x y n).disp px py = (s.pixel px py ^^ decide ((px, py) ∈ s.targets x y n)) := by
  rw [State.drawSprite_eq_plots, Drawing.pixel_plots _ _ (s.targets_nodup x y n)]
  rfl

/-- The collision: some target was on before the step (43_display.md R122). -/
theorem State.hit_drawSprite (s : State) (x y n : Nibble) :
    (s.drawSprite x y n).hit = (s.targets x y n).any (fun p => s.pixel p.1 p.2) := by
  rw [State.drawSprite_eq_plots, Drawing.hit_plots _ _ (s.targets_nodup x y n)]
  rfl

end Sys2Proof.Machine
end

