-- ==== Sys2Proof/Laws/PerInstr.lean ====
section
/-! SUPPORT. The family `EncodeSelectsRow`: the word of an instruction is selected by its own row of 30_encoding.md R56,
one lemma per constructor. -/

namespace Sys2Proof.Laws

theorem nibble_and_ones (a : Nibble) : a &&& 15#4 = a := by
  rw [show (15#4 : Nibble) = BitVec.allOnes 4 by decide, BitVec.and_allOnes]

theorem byte_and_ones (a : Byte) : a &&& 255#8 = a := by
  rw [show (255#8 : Byte) = BitVec.allOnes 8 by decide, BitVec.and_allOnes]

theorem encodeNnn_mask (op : Nibble) (a : Addr12) : encodeNnn op a &&& 0xF000 = encodeNnn op 0 := by
  have h : (0xF000 : Word) = 0xF#4 ++ 0#12 := by decide
  rw [h, encodeNnn, BitVec.and_append, encodeNnn]
  simp [nibble_and_ones]

theorem encodeXNn_maskOp (op x : Nibble) (nn : Byte) : encodeXNn op x nn &&& 0xF000 = encodeXNn op 0 0 := by
  have h : (0xF000 : Word) = 0xF#4 ++ 0#4 ++ 0#8 := by decide
  rw [h, encodeXNn, BitVec.and_append, BitVec.and_append, encodeXNn]
  simp [nibble_and_ones]

theorem encodeXNn_maskLow (op x : Nibble) (nn : Byte) : encodeXNn op x nn &&& 0xF0FF = encodeXNn op 0 nn := by
  have h : (0xF0FF : Word) = 0xF#4 ++ 0#4 ++ 0xFF#8 := by decide
  rw [h, encodeXNn, BitVec.and_append, BitVec.and_append, encodeXNn]
  simp [nibble_and_ones, byte_and_ones]

theorem encodeXYN_maskOp (op x y n : Nibble) : encodeXYN op x y n &&& 0xF000 = encodeXYN op 0 0 0 := by
  have h : (0xF000 : Word) = 0xF#4 ++ 0#4 ++ 0#4 ++ 0#4 := by decide
  rw [h, encodeXYN, BitVec.and_append, BitVec.and_append, BitVec.and_append, encodeXYN]
  simp [nibble_and_ones]

theorem encodeXYN_maskLow (op x y n : Nibble) : encodeXYN op x y n &&& 0xF00F = encodeXYN op 0 0 n := by
  have h : (0xF00F : Word) = 0xF#4 ++ 0#4 ++ 0#4 ++ 0xF#4 := by decide
  rw [h, encodeXYN, BitVec.and_append, BitVec.and_append, BitVec.and_append, encodeXYN]
  simp [nibble_and_ones]

namespace EncodeSelectsRow

/-- The word of the instruction is selected by the instruction's row (30_encoding.md R56). -/
def Statement (i : Instr) : Prop := rowSelects (rowOf i) (encode i)

theorem cls : Statement .cls :=
  by unfold Statement; decide
theorem ret : Statement .ret :=
  by unfold Statement; decide
theorem jpNnn (nnn : Addr12) : Statement (.jpNnn nnn) :=
  (encodeNnn_mask _ _).trans rfl
theorem callNnn (nnn : Addr12) : Statement (.callNnn nnn) :=
  (encodeNnn_mask _ _).trans rfl
theorem seVxNn (x : Nibble) (nn : Byte) : Statement (.seVxNn x nn) :=
  (encodeXNn_maskOp _ _ _).trans rfl
theorem sneVxNn (x : Nibble) (nn : Byte) : Statement (.sneVxNn x nn) :=
  (encodeXNn_maskOp _ _ _).trans rfl
theorem seVxVy (x : Nibble) (y : Nibble) : Statement (.seVxVy x y) :=
  (encodeXYN_maskLow _ _ _ _).trans rfl
theorem ldVxNn (x : Nibble) (nn : Byte) : Statement (.ldVxNn x nn) :=
  (encodeXNn_maskOp _ _ _).trans rfl
theorem addVxNn (x : Nibble) (nn : Byte) : Statement (.addVxNn x nn) :=
  (encodeXNn_maskOp _ _ _).trans rfl
theorem ldVxVy (x : Nibble) (y : Nibble) : Statement (.ldVxVy x y) :=
  (encodeXYN_maskLow _ _ _ _).trans rfl
theorem orVxVy (x : Nibble) (y : Nibble) : Statement (.orVxVy x y) :=
  (encodeXYN_maskLow _ _ _ _).trans rfl
theorem andVxVy (x : Nibble) (y : Nibble) : Statement (.andVxVy x y) :=
  (encodeXYN_maskLow _ _ _ _).trans rfl
theorem xorVxVy (x : Nibble) (y : Nibble) : Statement (.xorVxVy x y) :=
  (encodeXYN_maskLow _ _ _ _).trans rfl
theorem addVxVy (x : Nibble) (y : Nibble) : Statement (.addVxVy x y) :=
  (encodeXYN_maskLow _ _ _ _).trans rfl
theorem subVxVy (x : Nibble) (y : Nibble) : Statement (.subVxVy x y) :=
  (encodeXYN_maskLow _ _ _ _).trans rfl
theorem shrVxVy (x : Nibble) (y : Nibble) : Statement (.shrVxVy x y) :=
  (encodeXYN_maskLow _ _ _ _).trans rfl
theorem subnVxVy (x : Nibble) (y : Nibble) : Statement (.subnVxVy x y) :=
  (encodeXYN_maskLow _ _ _ _).trans rfl
theorem shlVxVy (x : Nibble) (y : Nibble) : Statement (.shlVxVy x y) :=
  (encodeXYN_maskLow _ _ _ _).trans rfl
theorem sneVxVy (x : Nibble) (y : Nibble) : Statement (.sneVxVy x y) :=
  (encodeXYN_maskLow _ _ _ _).trans rfl
theorem ldINnn (nnn : Addr12) : Statement (.ldINnn nnn) :=
  (encodeNnn_mask _ _).trans rfl
theorem jpV0Nnn (nnn : Addr12) : Statement (.jpV0Nnn nnn) :=
  (encodeNnn_mask _ _).trans rfl
theorem rndVxNn (x : Nibble) (nn : Byte) : Statement (.rndVxNn x nn) :=
  (encodeXNn_maskOp _ _ _).trans rfl
theorem drwVxVyN (x : Nibble) (y : Nibble) (n : Nibble) : Statement (.drwVxVyN x y n) :=
  (encodeXYN_maskOp _ _ _ _).trans rfl
theorem skpVx (x : Nibble) : Statement (.skpVx x) :=
  (encodeXNn_maskLow _ _ _).trans rfl
theorem sknpVx (x : Nibble) : Statement (.sknpVx x) :=
  (encodeXNn_maskLow _ _ _).trans rfl
theorem ldVxDt (x : Nibble) : Statement (.ldVxDt x) :=
  (encodeXNn_maskLow _ _ _).trans rfl
theorem ldVxK (x : Nibble) : Statement (.ldVxK x) :=
  (encodeXNn_maskLow _ _ _).trans rfl
theorem ldDtVx (x : Nibble) : Statement (.ldDtVx x) :=
  (encodeXNn_maskLow _ _ _).trans rfl
theorem ldStVx (x : Nibble) : Statement (.ldStVx x) :=
  (encodeXNn_maskLow _ _ _).trans rfl
theorem addIVx (x : Nibble) : Statement (.addIVx x) :=
  (encodeXNn_maskLow _ _ _).trans rfl
theorem ldFVx (x : Nibble) : Statement (.ldFVx x) :=
  (encodeXNn_maskLow _ _ _).trans rfl
theorem ldBVx (x : Nibble) : Statement (.ldBVx x) :=
  (encodeXNn_maskLow _ _ _).trans rfl
theorem ldMemVx (x : Nibble) : Statement (.ldMemVx x) :=
  (encodeXNn_maskLow _ _ _).trans rfl
theorem ldVxMem (x : Nibble) : Statement (.ldVxMem x) :=
  (encodeXNn_maskLow _ _ _).trans rfl

end EncodeSelectsRow

end Sys2Proof.Laws
end

