-- ==== Sys2Proof/Tests/Slice0.lean ====
section
/-! SUPPORT. Tests. Words are written out from the patterns of 30_encoding.md R56, and the expected results are taken from
the vectors of 95_test_vectors.md (their ids stand in the comments), never from the model. The last part shows, for each
statement with hypotheses, a concrete state and operands that meet them. -/

namespace Sys2Proof.Tests

open Sys2Proof Sys2Proof.Machine

/-! ### Ill-formed operand numbers are refused (30_encoding.md R52, R60) -/

theorem test_illFormed_nnn : ¬ (Line.formatNnn 4096).WellFormed := by decide
theorem test_illFormed_xnn_x : ¬ (Line.formatXnn 16 0).WellFormed := by decide
theorem test_illFormed_xnn_nn : ¬ (Line.formatXnn 0 256).WellFormed := by decide
theorem test_illFormed_xy_x : ¬ (Line.formatXy 16 0).WellFormed := by decide
theorem test_illFormed_xy_y : ¬ (Line.formatXy 0 16).WellFormed := by decide
theorem test_illFormed_xyn_x : ¬ (Line.formatXyn 16 0 0).WellFormed := by decide
theorem test_illFormed_xyn_y : ¬ (Line.formatXyn 0 16 0).WellFormed := by decide
theorem test_illFormed_xyn_n : ¬ (Line.formatXyn 0 0 16).WellFormed := by decide
theorem test_illFormed_x : ¬ (Line.formatX 16).WellFormed := by decide
theorem test_wellFormed_at_bounds :
    (Line.formatNnn 4095).WellFormed ∧ (Line.formatXnn 15 255).WellFormed ∧ (Line.formatXyn 15 15 15).WellFormed := by
  decide

/-! ### Decoding: one word per row of 30_encoding.md R56 -/

theorem test_decode_cls : decodeWord 0b0000000011100000 = some .cls := by decide
theorem test_decode_ret : decodeWord 0b0000000011101110 = some .ret := by decide
theorem test_decode_jpNnn : decodeWord 0b0001101010111100 = some (.jpNnn 0xABC) := by decide
theorem test_decode_callNnn : decodeWord 0b0010001100000000 = some (.callNnn 0x300) := by decide
theorem test_decode_seVxNn : decodeWord 0b0011111100000001 = some (.seVxNn 0xF 0x01) := by decide
theorem test_decode_sneVxNn : decodeWord 0b0100000100010001 = some (.sneVxNn 0x1 0x11) := by decide
theorem test_decode_seVxVy : decodeWord 0b0101001000110000 = some (.seVxVy 0x2 0x3) := by decide
theorem test_decode_ldVxNn : decodeWord 0b0110101000101011 = some (.ldVxNn 0xA 0x2B) := by decide
theorem test_decode_addVxNn : decodeWord 0b0111000000000011 = some (.addVxNn 0x0 0x03) := by decide
theorem test_decode_ldVxVy : decodeWord 0b1000001011110000 = some (.ldVxVy 0x2 0xF) := by decide
theorem test_decode_orVxVy : decodeWord 0b1000000100100001 = some (.orVxVy 0x1 0x2) := by decide
theorem test_decode_andVxVy : decodeWord 0b1000000100100010 = some (.andVxVy 0x1 0x2) := by decide
theorem test_decode_xorVxVy : decodeWord 0b1000000100100011 = some (.xorVxVy 0x1 0x2) := by decide
theorem test_decode_addVxVy : decodeWord 0b1000000000010100 = some (.addVxVy 0x0 0x1) := by decide
theorem test_decode_subVxVy : decodeWord 0b1000000000010101 = some (.subVxVy 0x0 0x1) := by decide
theorem test_decode_shrVxVy : decodeWord 0b1000000000010110 = some (.shrVxVy 0x0 0x1) := by decide
theorem test_decode_subnVxVy : decodeWord 0b1000000000010111 = some (.subnVxVy 0x0 0x1) := by decide
theorem test_decode_shlVxVy : decodeWord 0b1000000000011110 = some (.shlVxVy 0x0 0x1) := by decide
theorem test_decode_sneVxVy : decodeWord 0b1001001000110000 = some (.sneVxVy 0x2 0x3) := by decide
theorem test_decode_ldINnn : decodeWord 0b1010001100000000 = some (.ldINnn 0x300) := by decide
theorem test_decode_jpV0Nnn : decodeWord 0b1011111111111111 = some (.jpV0Nnn 0xFFF) := by decide
theorem test_decode_rndVxNn : decodeWord 0b1100001000001111 = some (.rndVxNn 0x2 0x0F) := by decide
theorem test_decode_drwVxVyN : decodeWord 0b1101000000010010 = some (.drwVxVyN 0x0 0x1 0x2) := by decide
theorem test_decode_skpVx : decodeWord 0b1110000010011110 = some (.skpVx 0x0) := by decide
theorem test_decode_sknpVx : decodeWord 0b1110000010100001 = some (.sknpVx 0x0) := by decide
theorem test_decode_ldVxDt : decodeWord 0b1111000100000111 = some (.ldVxDt 0x1) := by decide
theorem test_decode_ldVxK : decodeWord 0b1111001100001010 = some (.ldVxK 0x3) := by decide
theorem test_decode_ldDtVx : decodeWord 0b1111000000010101 = some (.ldDtVx 0x0) := by decide
theorem test_decode_ldStVx : decodeWord 0b1111001000011000 = some (.ldStVx 0x2) := by decide
theorem test_decode_addIVx : decodeWord 0b1111000100011110 = some (.addIVx 0x1) := by decide
theorem test_decode_ldFVx : decodeWord 0b1111000000101001 = some (.ldFVx 0x0) := by decide
theorem test_decode_ldBVx : decodeWord 0b1111000000110011 = some (.ldBVx 0x0) := by decide
theorem test_decode_ldMemVx : decodeWord 0b1111001001010101 = some (.ldMemVx 0x2) := by decide
theorem test_decode_ldVxMem : decodeWord 0b1111001001100101 = some (.ldVxMem 0x2) := by decide

/-- V-E2 to V-E5, V-E14: family 0 of 30_encoding.md R58. -/
theorem test_unrecognized_0 :
    [0x0000, 0x01E0, 0x00EF, 0x0300, 0x00FF].map decodeWord = List.replicate 5 none := by decide

/-- V-E6 to V-E9, and the last reserved word: families 5, 8, 9 of 30_encoding.md R58. -/
theorem test_unrecognized_589 :
    [0x5231, 0x523F, 0x8128, 0x812D, 0x812F, 0x9AB1, 0x9ABF].map decodeWord = List.replicate 7 none := by decide

/-- V-E10 to V-E13, and neighbours of recognized words: families E, F of 30_encoding.md R58. -/
theorem test_unrecognized_EF :
    [0xE000, 0xE19F, 0xE1A2, 0xF000, 0xF175, 0xF1FF].map decodeWord = List.replicate 6 none := by decide

/-- V-E1 with one more byte after it; one byte is no instruction. -/
theorem test_decode_bytes :
    decode [0x6A, 0x2B, 0x77] = .ok (.ldVxNn 0xA 0x2B, [0x77]) ∧ decode [0x6A] = .error .truncated ∧
    decode [0x01, 0xE0] = .error (.unrecognized 0x01E0) := ⟨rfl, rfl, rfl⟩

theorem test_decodeTableWord : decodeTableWord 16 0x6A2B = some (.ldVxNn 0xA 0x2B) := by decide

/-! ### One step on a small state (95_test_vectors.md part 2) -/

/-- After reset, with the word at 0x0200 and the listed registers loaded. -/
def start (w : Nat) (regs : List (Nibble × Byte)) : State :=
  (regs.foldl (fun s r => s.setV r.1 r.2) State.reset).withFetchWord 16 w

/-- The same with bytes in memory from `a` up, and `I` at `a`. -/
def startAt (w : Nat) (regs : List (Nibble × Byte)) (a : Word) (bytes : List Byte) : State :=
  ((start w regs).memWriteAll a.toNat bytes).setI a

/-- What `f` sees after one step, or none if the step stops. -/
def after {α : Type} (s : State) (f : State → α) : Option α :=
  match step s with
  | .next t => some (f t)
  | .fault _ => none
  | .refused _ => none

/-- V-E15: the fetch wraps, `pc` does not. -/
theorem test_fetch_wraps :
    after { State.reset with pc := 0x0FFF, mem := [(0x000, 0x12), (0xFFF, 0x60)] } (fun t => (t.getV 0, t.pc)) =
      some (0x12, 0x1001) := by decide

/-- V-C1. -/
theorem test_jpNnn : after (start 0x1ABC []) (·.pc) = some 0x0ABC := by decide

/-- V-C5: the sum is not reduced to 12 bits. -/
theorem test_jpV0Nnn : after (start 0xBFFF [(0, 0xFF)]) (·.pc) = some 0x10FE := by decide

/-- V-C6: the offset is `V[0]`, never `V[3]`. -/
theorem test_jpV0Nnn_v0 : after (start 0xB300 [(0, 0xFF), (3, 0)]) (·.pc) = some 0x03FF := by decide

/-- V-C7. -/
theorem test_callNnn : after (start 0x2300 []) (fun t => (t.stack[0], t.sp, t.pc)) = some (0x0202, 1, 0x0300) := by
  decide

/-- V-C9: 16 addresses held. -/
theorem test_callNnn_full :
    step ({ State.reset with sp := 16 }.withFetchWord 16 0x2300) = .fault (.stackOverflow 0x2300 0x0200) := rfl

/-- V-C13: no further advance; the address is used as it stands. -/
theorem test_ret :
    after ({ State.reset with sp := 2, stack := State.reset.stack.set 1 0x1235 }.withFetchWord 16 0x00EE)
      (fun t => (t.sp, t.pc)) = some (1, 0x1235) := by decide

/-- V-C12. -/
theorem test_ret_empty : step (start 0x00EE []) = .fault (.stackUnderflow 0x00EE 0x0200) := rfl

/-- V-C14, V-C15. -/
theorem test_seVxNn : after (start 0x3005 [(0, 5)]) (·.pc) = some 0x0204 ∧
    after (start 0x3005 [(0, 6)]) (·.pc) = some 0x0202 := by decide

/-- V-C17, V-C18. -/
theorem test_sneVxNn : after (start 0x4111 [(1, 0x10)]) (·.pc) = some 0x0204 ∧
    after (start 0x4110 [(1, 0x10)]) (·.pc) = some 0x0202 := by decide

/-- V-C19, V-C20. -/
theorem test_seVxVy : after (start 0x5230 [(2, 9), (3, 9)]) (·.pc) = some 0x0204 ∧
    after (start 0x5230 [(2, 9), (3, 8)]) (·.pc) = some 0x0202 := by decide

/-- V-C22, V-C23. -/
theorem test_sneVxVy : after (start 0x9230 [(2, 9), (3, 8)]) (·.pc) = some 0x0204 ∧
    after (start 0x9230 [(2, 9), (3, 9)]) (·.pc) = some 0x0202 := by decide

/-- V-C25: the skip wraps at 2^16 (decision D2). -/
theorem test_skip_wraps : after ((State.reset.setPc 0xFFFE).withFetchWord 16 0x3000) (·.pc) = some 0x0002 := by decide

/-- V-A2. -/
theorem test_ldVxNn : after (start 0x6F07 []) (fun t => (t.getV 0xF, t.pc)) = some (0x07, 0x0202) := by decide

/-- V-A3: no carry flag. -/
theorem test_addVxNn : after (start 0x7001 [(0, 0xFF)]) (fun t => (t.getV 0, t.getV 0xF)) = some (0, 0) := by decide

/-- V-A7. -/
theorem test_ldVxVy : after (start 0x82F0 [(0xF, 1)]) (·.getV 2) = some 1 := by decide

/-- V-A8. -/
theorem test_orVxVy :
    after (start 0x8121 [(1, 0xF0), (2, 0x0F), (0xF, 1)]) (fun t => (t.getV 1, t.getV 0xF)) = some (0xFF, 1) := by decide

/-- V-A9. -/
theorem test_andVxVy :
    after (start 0x8122 [(1, 0xF3), (2, 0x3C), (0xF, 1)]) (fun t => (t.getV 1, t.getV 0xF)) = some (0x30, 1) := by decide

/-- V-A10. -/
theorem test_xorVxVy :
    after (start 0x8123 [(1, 0xFF), (2, 0x0F), (0xF, 1)]) (fun t => (t.getV 1, t.getV 0xF)) = some (0xF0, 1) := by decide

/-- V-A14: 255 is not above 255. -/
theorem test_addVxVy :
    after (start 0x8014 [(0, 0x80), (1, 0x7F)]) (fun t => (t.getV 0, t.getV 0xF)) = some (0xFF, 0) := by decide

/-- V-A18: the sum replaces the carry. -/
theorem test_addVxVy_vf : after (start 0x8F14 [(0xF, 0x80), (1, 0x90)]) (·.getV 0xF) = some 0x10 := by decide

/-- V-A22: the comparison is strict. -/
theorem test_subVxVy :
    after (start 0x8015 [(0, 7), (1, 7), (0xF, 1)]) (fun t => (t.getV 0, t.getV 0xF)) = some (0, 0) := by decide

/-- V-A27: the old VF is the subtrahend. -/
theorem test_subVxVy_vf :
    after (start 0x80F5 [(0, 5), (0xF, 1)]) (fun t => (t.getV 0, t.getV 0xF)) = some (4, 1) := by decide

/-- V-A29. -/
theorem test_subnVxVy :
    after (start 0x8017 [(0, 5), (1, 3)]) (fun t => (t.getV 0, t.getV 0xF)) = some (0xFE, 0) := by decide

/-- V-A30: equal operands set the flag. -/
theorem test_subnVxVy_equal :
    after (start 0x8017 [(0, 7), (1, 7)]) (fun t => (t.getV 0, t.getV 0xF)) = some (0, 1) := by decide

/-- V-A33: the source is `V[y]`. -/
theorem test_shrVxVy :
    after (start 0x8016 [(0, 0xAA), (1, 5)]) (fun t => (t.getV 0, t.getV 1, t.getV 0xF)) = some (2, 5, 1) := by decide

/-- V-A38: the result replaces the bit shifted out. -/
theorem test_shrVxVy_vf : after (start 0x8F16 [(1, 5)]) (·.getV 0xF) = some 2 := by decide

/-- V-A40. -/
theorem test_shlVxVy :
    after (start 0x801E [(0, 0xAA), (1, 0x81)]) (fun t => (t.getV 0, t.getV 1, t.getV 0xF)) = some (2, 0x81, 1) := by
  decide

/-- V-A46: the old VF is the source. -/
theorem test_shlVxVy_vf : after (start 0x80FE [(0xF, 0x81)]) (fun t => (t.getV 0, t.getV 0xF)) = some (2, 1) := by decide

/-- V-A47. -/
theorem test_rndVxNn : (transact (.step 0xA5) (start 0xC20F [])).1.getV 2 = 0x05 := by decide

/-- V-M1. -/
theorem test_ldINnn : after (start 0xAFFF []) (·.i) = some 0x0FFF := by decide

/-- V-M3: not masked to 12 bits, no flag. -/
theorem test_addIVx :
    after ((start 0xF01E [(0, 1)]).setI 0x0FFF) (fun t => (t.i, t.getV 0xF)) = some (0x1000, 0) := by decide

/-- V-M4: the wrap at 2^16 (decision D3). -/
theorem test_addIVx_wraps : after ((start 0xF01E [(0, 2)]).setI 0xFFFF) (·.i) = some 0x0001 := by decide

/-- V-M5d: all of `V[x]`. -/
theorem test_ldFVx : after (start 0xF029 [(0, 0xFF)]) (·.i) = some 0x04FB := by decide

/-- V-M6. -/
theorem test_ldBVx :
    after (startAt 0xF033 [(0, 128)] 0x300 []) (fun t => [t.memRead 0x300, t.memRead 0x301, t.memRead 0x302]) =
      some [1, 2, 8] := by decide

/-- V-M7, the store: `V[0]` to `V[2]` and no more; `I` unchanged. -/
theorem test_ldMemVx :
    after (startAt 0xF255 [(0, 0x11), (1, 0x22), (2, 0x33), (3, 0x44)] 0x300 [])
      (fun t => ([t.memRead 0x300, t.memRead 0x301, t.memRead 0x302, t.memRead 0x303], t.i)) =
      some ([0x11, 0x22, 0x33, 0], 0x300) := by decide

/-- V-M11: `I` above 0x0FFF addresses modulo 4096. -/
theorem test_ldVxMem :
    after (startAt 0xF165 [] 0x1300 [0xAB, 0xCD]) (fun t => (t.getV 0, t.getV 1, t.i)) = some (0xAB, 0xCD, 0x1300) := by
  decide

/-- V-D13. -/
theorem test_cls :
    after (({ start 0x00E0 [(0xF, 1)] with dirty := false }).setDisplay (Vector.replicate 32 1))
      (fun t => (t.disp, t.dirty, t.getV 0xF)) = some (Vector.replicate 32 0, true, 1) := by decide

/-- V-D3: wrap on both axes, no collision. The pixels (62,31), (63,31), (4,31), (5,31), (62,0), (5,0) are on. -/
theorem test_drwVxVyN_wraps :
    after (startAt 0xD012 [(0, 62), (1, 31)] 0x20E [0xC3, 0x81])
      (fun t => ([(62, 31), (63, 31), (4, 31), (5, 31), (62, 0), (5, 0)].map (fun p => t.pixel p.1 p.2),
        [(6, 31), (63, 0), (4, 0), (62, 1)].map (fun p => t.pixel p.1 p.2), t.getV 0xF)) =
      some ([true, true, true, true, true, true], [false, false, false, false], 0) := by decide

/-- V-D5: a collision on (0,0). -/
theorem test_drwVxVyN_collides :
    after ((startAt 0xD011 [] 0x300 [0xC0]).setDisplay (Display.blank.flip 0 0))
      (fun t => (t.pixel 0 0, t.pixel 1 0, t.getV 0xF)) = some (false, true, 1) := by decide

/-- V-K1, V-K2. -/
theorem test_skpVx : after ((start 0xE09E [(0, 7)]).setKey 7 true) (·.pc) = some 0x0204 ∧
    after (start 0xE09E [(0, 7)]) (·.pc) = some 0x0202 := by decide

/-- V-K7: the index is not masked. -/
theorem test_skpVx_range :
    step ((start 0xE09E [(0, 0x17)]).setKey 7 true) = .fault (.keyIndexOutOfRange 0xE09E 0x0200 0x17) := rfl

/-- V-K3, V-K4. -/
theorem test_sknpVx : after (start 0xE0A1 [(0, 7)]) (·.pc) = some 0x0204 ∧
    after ((start 0xE0A1 [(0, 7)]).setKey 7 true) (·.pc) = some 0x0202 := by decide

/-- V-K6. -/
theorem test_sknpVx_range :
    step (start 0xE0A1 [(0, 0xFF)]) = .fault (.keyIndexOutOfRange 0xE0A1 0x0200 0xFF) := rfl

/-- V-K8: nothing changes. -/
theorem test_ldVxK_waits : step (start 0xF30A []) = .next (start 0xF30A []) := rfl

/-- V-K10: the lowest key wins. -/
theorem test_ldVxK :
    after (((start 0xF30A []).setKey 9 true).setKey 3 true) (fun t => (t.getV 3, t.pc)) = some (3, 0x0202) := by decide

/-- V-K13. -/
theorem test_ldVxDt : after ((start 0xF107 []).setDt 6) (fun t => (t.getV 1, t.dt)) = some (6, 6) := by decide

/-- V-K14. -/
theorem test_ldDtVx : after (start 0xF015 [(0, 7)]) (·.dt) = some 7 := by decide

/-- V-K15. -/
theorem test_ldStVx : after (start 0xF218 [(2, 0x1E)]) (·.st) = some 0x1E := by decide

/-- V-H2: the timers stop at 0. -/
theorem test_timerTick :
    ((transact .timerTick (State.reset.setSt 1)).1.dt, (transact .timerTick (State.reset.setSt 1)).1.st) = (0, 0) := by
  decide

/-- V-H8: nothing but the bytes of memory changes. -/
theorem test_loadProgram :
    (fun t : State => (t.memRead 0x200, t.memRead 0x201, t.pc, t.getV 3))
      (transact (.loadProgram [0x12, 0x00]) ((State.reset.setPc 0x0ABC).setV 3 9)).1 = (0x12, 0x00, 0x0ABC, 9) := by
  decide

/-! ### Each statement's hypotheses are met somewhere -/

theorem witness_DecoderAgreesWithOpcodeRows : decodeWord 0x8015 = some (.subVxVy 0x0 0x1) ∧ decodeWord 0x8018 = none :=
  ⟨rfl, rfl⟩

theorem witness_StepRunsDecodedInstruction : (start 0x6A2B []).Fetches (.ldVxNn 0xA 0x2B) := rfl

theorem witness_UnknownInstructionIsRaised :
    decodeWord State.reset.fetchWord = none ∧ step State.reset = .fault (.unknownInstruction 0x0000 0x0200) := ⟨rfl, rfl⟩

theorem witness_FetchIsBigEndianAndWraps : (0x1200 : Word).toNat % 4096 = State.reset.pc.toNat % 4096 := rfl

theorem witness_FaultCause_unknownInstruction : FaultCause State.reset (.unknownInstruction 0x0000 0x0200) :=
  ⟨rfl, rfl, rfl⟩

theorem witness_FaultCause_stackOverflow :
    FaultCause ({ State.reset with sp := 16 }.withFetchWord 16 0x2300) (.stackOverflow 0x2300 0x0200) :=
  ⟨⟨0x300, rfl⟩, rfl, rfl, rfl⟩

theorem witness_FaultCause_stackUnderflow : FaultCause (start 0x00EE []) (.stackUnderflow 0x00EE 0x0200) :=
  ⟨rfl, rfl, rfl, rfl⟩

/-- At the first value that names no key. -/
theorem witness_FaultCause_keyIndexOutOfRange :
    FaultCause (start 0xE09E [(0, 16)]) (.keyIndexOutOfRange 0xE09E 0x0200 16) :=
  ⟨0, .inl rfl, by decide, rfl, rfl, rfl⟩

theorem witness_SelfJumpRunsForEver :
    (start 0x1200 []).Fetches (.jpNnn 0x200) ∧ (start 0x1200 []).pc = (0x200 : Addr12).setWidth 16 := ⟨rfl, rfl⟩

theorem witness_JumpSetsPcOnly : (0x200 : Addr12).setWidth 16 = State.reset.pc := rfl

theorem witness_IndexedJumpAddsV0 : State.reset.getV 0 = 0 := rfl

/-- Both ends of the clause that completes. -/
theorem witness_CallPushesReturnAddress_room :
    State.reset.sp.val < 16 ∧ { State.reset with sp := 15 }.sp.val < 16 := by decide

theorem witness_CallPushesReturnAddress_full : { State.reset with sp := 16 }.sp.val = 16 := rfl

/-- Both ends of the clause that completes. -/
theorem witness_ReturnPopsReturnAddress_held :
    0 < { State.reset with sp := 1 }.sp.val ∧ 0 < { State.reset with sp := 16 }.sp.val := by decide

theorem witness_ReturnPopsReturnAddress_empty : State.reset.sp.val = 0 := rfl

theorem witness_ReturnUndoesCall :
    ∃ t u, exec (.callNnn 0x300) State.reset = .next t ∧ u.sp = t.sp ∧ u.stack = t.stack ∧ u ≠ t :=
  ⟨_, (State.reset.push 0x0202).getD State.reset, rfl, rfl, rfl, by decide⟩

theorem witness_PcAfterEveryInstruction : ∃ t, exec (.ldVxK 3) State.reset = .next t := ⟨_, rfl⟩

/-- `x` is not VF in the flag's clause of the five instructions of 41_load_and_alu.md R103. -/
theorem witness_AddRegistersWithCarry : (0xE#4 : Nibble) ≠ 0xF#4 := by decide

theorem witness_SubtractWithStrictFlag : (0x0#4 : Nibble) ≠ 0xF#4 := by decide

theorem witness_ReverseSubtractWithFlag : (0x1#4 : Nibble) ≠ 0xF#4 := by decide

theorem witness_ShiftsTakeVy : (0x2#4 : Nibble) ≠ 0xF#4 := by decide

theorem witness_RandomByteIsMasked :
    { State.reset with rndIn := [0xA5, 0x01] }.rndIn = 0xA5 :: [0x01] ∧ State.reset.rndIn = [] := ⟨rfl, rfl⟩

theorem witness_StoreThenLoadRestoresRegisters :
    ∃ t, exec (.ldMemVx 0xF) (State.reset.setI 0x300) = .next t ∧ (t.setV 0 7).i = (State.reset.setI 0x300).i ∧
      ∀ a, (t.setV 0 7).memRead a = t.memRead a := ⟨_, rfl, rfl, fun _ => rfl⟩

/-- Program P7: 0x1208 is stored at the next `pc`. -/
theorem witness_StoredWordIsExecutedNext :
    ∃ t, exec (.ldMemVx 1) (((start 0xF155 [(0, 0x12), (1, 0x08)]).setPc 0x206).setI 0x208) = .next t ∧
      (0 : Nibble).toNat + 1 ≤ (1 : Nibble).toNat ∧
      t.pc.toNat % 4096 = (((start 0xF155 [(0, 0x12), (1, 0x08)]).setPc 0x206).setI 0x208).ea 0 % 4096 ∧
      decodeWord (0x12#8 ++ 0x08#8) = some (.jpNnn 0x208) := ⟨_, rfl, by decide, rfl, rfl⟩

theorem witness_IndexObservedModulo4096 : (0x1300 : Word).toNat % 4096 = (State.reset.setI 0x300).i.toNat % 4096 := rfl

/-- V-D1: bit 7 of the first row hits (0,0). -/
theorem witness_DrawXorsSprite_hits : (startAt 0xD011 [] 0x300 [0x80]).SpriteHits 0 1 1 0 0 :=
  ⟨0, by decide, 0, by decide, by decide, by decide, by decide⟩

/-- V-D5: a target that was on. -/
theorem witness_DrawXorsSprite_collides :
    ∃ px py, ((startAt 0xD011 [] 0x300 [0xC0]).setDisplay (Display.blank.flip 0 0)).SpriteHits 0 1 1 px py ∧
      ((startAt 0xD011 [] 0x300 [0xC0]).setDisplay (Display.blank.flip 0 0)).pixel px py = true :=
  ⟨0, 0, ⟨0, by decide, 0, by decide, by decide, by decide, by decide⟩, by decide⟩

/-- On a blank display no target is on. -/
theorem witness_DrawXorsSprite_clear (px : Fin 64) (py : Fin 32)
    (_ : (startAt 0xD011 [] 0x300 [0x80]).SpriteHits 0 1 1 px py) :
    (startAt 0xD011 [] 0x300 [0x80]).pixel px py = false := by
  have h : ∀ q : Fin 32, (startAt 0xD011 [] 0x300 [0x80]).disp[q.val]'q.isLt = 0 := by decide
  rw [State.pixel, Display.pixel, h py]
  simp

/-- V-D4: the same sprite twice, nothing changed in between. -/
theorem witness_DrawTwiceRestoresDisplay :
    ∃ t u, exec (.drwVxVyN 0 1 1) (startAt 0xD011 [] 0x300 [0x80]) = .next t ∧
      t.i = (startAt 0xD011 [] 0x300 [0x80]).i ∧
      (∀ a, t.memRead a = (startAt 0xD011 [] 0x300 [0x80]).memRead a) ∧
      t.getV 0 = (startAt 0xD011 [] 0x300 [0x80]).getV 0 ∧ t.getV 1 = (startAt 0xD011 [] 0x300 [0x80]).getV 1 ∧
      exec (.drwVxVyN 0 1 1) t = .next u := ⟨_, _, rfl, rfl, fun _ => rfl, rfl, rfl, rfl⟩

theorem witness_DrawCountsPixels : ∃ t, exec (.drwVxVyN 0 1 2) (startAt 0xD012 [] 0x20E [0xC3, 0x81]) = .next t :=
  ⟨_, rfl⟩

/-- The last key number and the first value that is none. -/
theorem witness_KeySkips : ((State.reset.setV 0 15).getV 0).toNat = (0xF : Nibble).toNat ∧
    ((State.reset.setV 0 16).getV 0).toNat > 15 := by decide

/-- The last key, the only one pressed; and none pressed. -/
theorem witness_WaitForKey :
    ((State.reset.setKey 15 true).keyDown 15 = true ∧
      ∀ j, j.toNat < (15 : Nibble).toNat → (State.reset.setKey 15 true).keyDown j = false) ∧
    ∀ k, State.reset.keyDown k = false := by
  refine ⟨⟨rfl, ?_⟩, ?_⟩ <;> decide

theorem witness_EveryInstructionKeepsItsFrame : ∃ t, exec (.ldVxMem 0xF) (State.reset.setI 0x300) = .next t := ⟨_, rfl⟩

theorem witness_StepKeepsKeysAndNeverClearsDirty : ∃ t, step (start 0x6005 []) = .next t ∧ (start 0x6005 []).dirty = true :=
  ⟨_, rfl, rfl⟩

theorem witness_KeysReadOnlyByKeyInstructions (x : Nibble) :
    Instr.cls ≠ .skpVx x ∧ Instr.cls ≠ .sknpVx x ∧ Instr.cls ≠ .ldVxK x := ⟨nofun, nofun, nofun⟩

theorem witness_RandomInputReadOnlyByCxnn (x : Nibble) (nn : Byte) : Instr.ret ≠ .rndVxNn x nn := nofun

theorem witness_StepKeepsMemoryCanonical :
    (start 0xF055 []).Inv ∧ ∃ t, step (start 0xF055 []) = .next t := ⟨by unfold State.Inv; decide, _, rfl⟩

theorem witness_ReachableMemoryIsCanonical : Reachable (transact (.loadProgram [0x60, 0x05]) State.reset).1 :=
  .transact _ .reset

/-- The largest program. -/
theorem witness_LoadedProgramRunsFirst :
    (List.replicate 3582 (0 : Byte)).length ≤ 3582 ∧ decodeWord (0x60#8 ++ 0x05#8) = some (.ldVxNn 0 5) :=
  ⟨List.length_replicate.le, rfl⟩

/-- The largest program and the smallest that is too large. -/
theorem witness_LoadProgramCopiesOrRejects :
    (List.replicate 3584 (0xAB : Byte)).length ≤ 3584 ∧ 3584 < (List.replicate 3585 (0xAB : Byte)).length :=
  ⟨List.length_replicate.le, by rw [List.length_replicate]; decide⟩

theorem witness_FaultChangesNothing :
    (transact (.step 0) State.reset).2 = .fault (.unknownInstruction 0x0000 0x0200) := rfl

theorem witness_FaultRepeatsUntilResetOrLoad :
    (transact (.step 0) State.reset).2 = .fault (.unknownInstruction 0x0000 0x0200) ∧
      ∀ t ∈ [Transaction.setKey 3 true, .timerTick, .step 7, .clearDirty], t.Gentle := by
  refine ⟨rfl, ?_⟩
  simp [Transaction.Gentle]

theorem witness_HostStepSuppliesRandomByte :
    (start 0xC20F []).Fetches (.rndVxNn 2 0x0F) ∧
      (∀ x nn, ¬ (start 0x6005 []).Fetches (.rndVxNn x nn)) ∧ (∃ t, step (start 0x6005 []) = .next t) ∧
      (∀ x nn, ¬ State.reset.Fetches (.rndVxNn x nn)) ∧ ∃ f, step State.reset = .fault f :=
  ⟨rfl, nofun, ⟨_, rfl⟩, nofun, ⟨_, rfl⟩⟩

theorem witness_HostSetsKeysAndTimers : (1 : Nibble) ≠ 0 := by decide

theorem witness_HostReadsDisplayAndClearsDirty :
    Transaction.clearDirty ≠ .reset ∧ ∀ r, Transaction.clearDirty ≠ .step r := ⟨nofun, nofun⟩

end Sys2Proof.Tests
end

/-! PROOF. Noninterference of the key matrix (10_state.md R18): each operation that a meaning is built from, but for
`keyDown` and `firstKey`, gives the same answer under any key matrix. -/

namespace Sys2Proof.Machine

/-! ### Draws and block loads, for any two states that agree on what they read -/

/-- Of the state, a sprite reads only the bytes at `I` up. -/
theorem Drawing.rows_congr {s t : State} (h : ∀ r, t.memRead (t.ea r) = s.memRead (s.ea r)) (d : Drawing)
    (ox oy : Nat) (rs : List Nat) : d.rows t ox oy rs = d.rows s ox oy rs := by
  induction rs generalizing d with
  | nil => rfl
  | cons r rs ih => rw [Drawing.rows, Drawing.rows, h, ih]

/-- A block load commutes with any change of the state that its reads do not see and its register writes keep. -/
theorem State.loadBlock_comm {f : State → State} (hread : ∀ s r, (f s).memRead ((f s).ea r) = s.memRead (s.ea r))
    (hset : ∀ s x b, (f s).setV x b = f (s.setV x b)) (s : State) (l : List Nat) :
    (f s).loadBlock l = f (s.loadBlock l) := by
  induction l generalizing s with
  | nil => rfl
  | cons r l ih => rw [State.loadBlock, State.loadBlock, hread, hset, ih]

/-! ### The operations under another key matrix -/

/-- The state with another key matrix. -/
def State.withKeys (s : State) (keys : Vector Bool 16) : State := { s with key := keys }

section
variable (s : State) (keys : Vector Bool 16)

theorem State.drawSprite_withKeys (x y n : Nibble) : (s.withKeys keys).drawSprite x y n = s.drawSprite x y n :=
  Drawing.rows_congr (s := s) (t := s.withKeys keys) (fun _ => rfl) _ _ _ _

theorem State.loadBlock_withKeys (l : List Nat) : (s.withKeys keys).loadBlock l = (s.loadBlock l).withKeys keys :=
  State.loadBlock_comm (f := fun t => t.withKeys keys) (fun _ _ => rfl) (fun _ _ _ => rfl) s l

theorem State.rndUsed_withKeys : (s.withKeys keys).rndUsed = s.rndUsed.withKeys keys := by
  unfold State.rndUsed State.withKeys
  cases s.rndIn <;> rfl

theorem State.push_withKeys (r : Word) :
    (s.withKeys keys).push r = (s.push r).map (fun t => t.withKeys keys) := by
  unfold State.push State.withKeys
  by_cases h : s.sp.val < 16
  · simp [h]
  · simp [h]

theorem State.pop_withKeys :
    (s.withKeys keys).pop = s.pop.map (fun p => (p.1, p.2.withKeys keys)) := by
  unfold State.pop State.withKeys
  by_cases h : 0 < s.sp.val
  · simp [h]
  · simp [h]

/-! ### The five meanings that branch or recurse -/

theorem execRet_withKeys : execRet (s.withKeys keys) = mapNext (fun t => t.withKeys keys) (execRet s) := by
  unfold execRet
  rw [State.pop_withKeys]
  cases s.pop <;> rfl

theorem execCallNnn_withKeys (nnn : Addr12) :
    execCallNnn nnn (s.withKeys keys) = mapNext (fun t => t.withKeys keys) (execCallNnn nnn s) := by
  unfold execCallNnn
  rw [State.push_withKeys, show (s.withKeys keys).pc = s.pc from rfl]
  cases s.push (s.pc + 2) <;> rfl

theorem execRndVxNn_withKeys (x : Nibble) (nn : Byte) :
    execRndVxNn x nn (s.withKeys keys) = mapNext (fun t => t.withKeys keys) (execRndVxNn x nn s) := by
  unfold execRndVxNn
  rw [State.rndUsed_withKeys]; rfl

theorem execDrwVxVyN_withKeys (x y n : Nibble) :
    execDrwVxVyN x y n (s.withKeys keys) = mapNext (fun t => t.withKeys keys) (execDrwVxVyN x y n s) := by
  unfold execDrwVxVyN
  rw [State.drawSprite_withKeys]; rfl

theorem execLdVxMem_withKeys (x : Nibble) :
    execLdVxMem x (s.withKeys keys) = mapNext (fun t => t.withKeys keys) (execLdVxMem x s) := by
  unfold execLdVxMem
  rw [State.loadBlock_withKeys]; rfl

end

/-- Settles O44. The key instructions are excluded; the stack, the random input, the draw and the block load go by
their lemmas; every other meaning is a chain of record updates whose values `key` does not enter, so both sides unfold
to the same state. -/
theorem keysReadOnlyByKeyInstructions : Obligations.KeysReadOnlyByKeyInstructions := by
  unfold Obligations.KeysReadOnlyByKeyInstructions
  intro i s keys h
  cases i with
  | skpVx x => exact absurd rfl (h x).1
  | sknpVx x => exact absurd rfl (h x).2.1
  | ldVxK x => exact absurd rfl (h x).2.2
  | ret => exact execRet_withKeys s keys
  | callNnn nnn => exact execCallNnn_withKeys s keys nnn
  | rndVxNn x nn => exact execRndVxNn_withKeys s keys x nn
  | drwVxVyN x y n => exact execDrwVxVyN_withKeys s keys x y n
  | ldVxMem x => exact execLdVxMem_withKeys s keys x
  | cls | jpNnn | jpV0Nnn | seVxNn | sneVxNn | seVxVy | sneVxVy => rfl
  | ldVxNn | addVxNn | ldVxVy | orVxVy | andVxVy | xorVxVy | addVxVy | subVxVy | shrVxVy | subnVxVy | shlVxVy => rfl
  | ldINnn | addIVx | ldFVx | ldBVx | ldMemVx | ldVxDt | ldDtVx | ldStVx => rfl

end Sys2Proof.Machine

/-! PROOF. The fetch (20_memory.md R31, R33, R35), and the coherence of stores with it (R41). -/

namespace Sys2Proof.Machine

/-! ### The fetch -/

/-- The fetch reads two bytes up from any address that agrees with `pc` modulo 4096. -/
theorem State.fetchWord_of_pc_mod {s : State} {a : Nat} (h : s.pc.toNat % 4096 = a % 4096) :
    s.fetchWord = s.memRead a ++ s.memRead (a + 1) := by
  have h' : (s.pc.toNat + 1) % 4096 = (a + 1) % 4096 := by omega
  rw [State.fetchWord, State.memRead_mod s _ _ h, State.memRead_mod s _ _ h']

/-- A step of a state that fetches an instruction is that instruction's execution (30_encoding.md R50). -/
theorem State.Fetches.step_eq {s : State} {i : Instr} (h : s.Fetches i) : step s = exec i s := by
  unfold State.Fetches at h
  rw [step, h]

/-- Settles O8. Each half of the word is the byte that was appended there, and `State.memRead` takes its address modulo
4096; another `pc` that agrees modulo 4096 names the same two bytes. -/
theorem fetchIsBigEndianAndWraps : Obligations.FetchIsBigEndianAndWraps := by
  unfold Obligations.FetchIsBigEndianAndWraps
  intro s
  refine ⟨?high, ?low, fun p hp => ?samePc⟩
  case high =>
    rw [State.memRead_mod s _ s.pc.toNat (Nat.mod_mod _ _)]
    exact BitVec.extractLsb'_append_eq_left
  case low =>
    rw [State.memRead_mod s _ (s.pc.toNat + 1) (Nat.mod_mod _ _)]
    exact BitVec.extractLsb'_append_eq_right
  case samePc => exact State.fetchWord_of_pc_mod (s := s.setPc p) hp

/-! ### A stored word is fetched -/

/-- After Fx55 the byte at `I + z` is `V[z]`, for every `z` up to `x` (42_index_and_memory.md R114). -/
theorem memRead_ea_of_exec_ldMemVx {x z : Nibble} {s t : State} (h : exec (.ldMemVx x) s = .next t)
    (hz : z.toNat ≤ x.toNat) : t.memRead (s.ea z.toNat) = s.getV z := by
  cases h
  have hlen := s.blockValues_length x
  have hread := s.memRead_memWriteAll_inside (s.ea 0) (s.blockValues x) z.toNat (by omega) (by omega)
  rwa [State.blockValues_getElem, BitVec.ofNat_toNat, BitVec.setWidth_eq] at hread

/-- Settles O33. The two bytes the next step fetches are the stored `V[z]` and `V[z + 1]`, because `z < x` keeps `z + 1`
from wrapping to 0. -/
theorem storedWordIsExecutedNext : Obligations.StoredWordIsExecutedNext := by
  unfold Obligations.StoredWordIsExecutedNext
  intro x z s t i hexec hz hpc hdecode
  have hsucc : (z + 1).toNat = z.toNat + 1 := BitVec.toNat_add_of_lt (by have := x.isLt; simp; omega)
  have hhigh : t.memRead (s.ea z.toNat) = s.getV z := memRead_ea_of_exec_ldMemVx hexec (by omega)
  have hlow : t.memRead (s.ea z.toNat + 1) = s.getV (z + 1) := by
    have := memRead_ea_of_exec_ldMemVx (z := z + 1) hexec (by omega)
    rwa [hsucc] at this
  have hfetch : t.Fetches i := by
    rw [State.Fetches, State.fetchWord_of_pc_mod hpc, hhigh, hlow, hdecode]
  exact hfetch.step_eq

end Sys2Proof.Machine

/-! PROOF. The decoder and the encoder (30_encoding.md R50 to R61): they invert each other, each row of the table
selects exactly the words of its own instruction, and the words that are left over, family by family. -/

namespace Sys2Proof

/-! ### A word is its fields put together (30_encoding.md R52) -/

section
variable {w : Word} {op : Nibble} (h : fieldOp w = op)
include h

theorem encodeNnn_of_fieldOp : encodeNnn op (fieldNnn w) = w := by
  apply BitVec.eq_of_toNat_eq
  rw [← h, encodeNnn_toNat, fieldOp_toNat, fieldNnn_toNat]
  omega

theorem encodeXNn_of_fieldOp : encodeXNn op (fieldX w) (fieldNn w) = w := by
  apply BitVec.eq_of_toNat_eq
  rw [← h, encodeXNn_toNat, fieldOp_toNat, fieldX_toNat, fieldNn_toNat]
  omega

theorem encodeXYN_of_fieldOp : encodeXYN op (fieldX w) (fieldY w) (fieldN w) = w := by
  apply BitVec.eq_of_toNat_eq
  rw [← h, encodeXYN_toNat, fieldOp_toNat, fieldX_toNat, fieldY_toNat, fieldN_toNat]
  omega

theorem encodeXYN_of_fieldOp_fieldN {n : Nibble} (hn : fieldN w = n) : encodeXYN op (fieldX w) (fieldY w) n = w :=
  hn ▸ encodeXYN_of_fieldOp h

end

/-- The sixteen values of the family field. -/
theorem nibble_cases (a : Nibble) :
    a = 0x0 ∨ a = 0x1 ∨ a = 0x2 ∨ a = 0x3 ∨ a = 0x4 ∨ a = 0x5 ∨ a = 0x6 ∨ a = 0x7 ∨
    a = 0x8 ∨ a = 0x9 ∨ a = 0xA ∨ a = 0xB ∨ a = 0xC ∨ a = 0xD ∨ a = 0xE ∨ a = 0xF := by
  revert a; decide

/-! ### Decoding what was encoded -/

/-- The decoder takes the branch of the fixed digits and finds the operands in the fields of their format. -/
theorem decodeWord_encode (i : Instr) : decodeWord (encode i) = some i := by
  cases i with
  | cls | ret => rfl
  | jpNnn | callNnn | ldINnn | jpV0Nnn => simp [encode, decodeWord]
  | seVxNn | sneVxNn | ldVxNn | addVxNn | rndVxNn => simp [encode, decodeWord]
  | seVxVy | sneVxVy | drwVxVyN => simp [encode, decodeWord]
  | ldVxVy | orVxVy | andVxVy | xorVxVy | addVxVy | subVxVy | shrVxVy | subnVxVy | shlVxVy =>
    simp [encode, decodeWord, decodeFamily8]
  | skpVx | sknpVx => simp [encode, decodeWord, decodeFamilyE]
  | ldVxDt | ldVxK | ldDtVx | ldStVx | addIVx | ldFVx | ldBVx | ldMemVx | ldVxMem =>
    simp [encode, decodeWord, decodeFamilyF]

/-! ### Encoding what was decoded -/

theorem encode_of_decodeFamily0 {w : Word} {i : Instr} (h : decodeFamily0 w = some i) : encode i = w := by
  unfold decodeFamily0 at h
  split_ifs at h <;> cases h <;> subst w <;> rfl

theorem encode_of_decodeFamily8 {x y n : Nibble} {i : Instr} (h : decodeFamily8 x y n = some i) :
    encode i = encodeXYN 0x8 x y n := by
  unfold decodeFamily8 at h
  split_ifs at h <;> cases h <;> subst n <;> rfl

theorem encode_of_decodeFamilyE {x : Nibble} {nn : Byte} {i : Instr} (h : decodeFamilyE x nn = some i) :
    encode i = encodeXNn 0xE x nn := by
  unfold decodeFamilyE at h
  split_ifs at h <;> cases h <;> subst nn <;> rfl

theorem encode_of_decodeFamilyF {x : Nibble} {nn : Byte} {i : Instr} (h : decodeFamilyF x nn = some i) :
    encode i = encodeXNn 0xF x nn := by
  unfold decodeFamilyF at h
  split_ifs at h <;> cases h <;> subst nn <;> rfl

/-- The encoder puts back the digits that the decoder matched and the operands it read: one goal for each family, 0 to
F. -/
theorem encode_of_decodeWord {w : Word} {i : Instr} (h : decodeWord w = some i) : encode i = w := by
  obtain hop | hop | hop | hop | hop | hop | hop | hop | hop | hop | hop | hop | hop | hop | hop | hop :=
      nibble_cases (fieldOp w) <;>
    simp only [decodeWord, hop, BitVec.ofNat_eq_ofNat, BitVec.reduceEq, ↓reduceIte, Option.ite_none_right_eq_some,
      Option.some.injEq] at h
  · exact encode_of_decodeFamily0 h
  · exact h ▸ encodeNnn_of_fieldOp hop
  · exact h ▸ encodeNnn_of_fieldOp hop
  · exact h ▸ encodeXNn_of_fieldOp hop
  · exact h ▸ encodeXNn_of_fieldOp hop
  · obtain ⟨hn, rfl⟩ := h; exact encodeXYN_of_fieldOp_fieldN hop hn
  · exact h ▸ encodeXNn_of_fieldOp hop
  · exact h ▸ encodeXNn_of_fieldOp hop
  · exact (encode_of_decodeFamily8 h).trans (encodeXYN_of_fieldOp hop)
  · obtain ⟨hn, rfl⟩ := h; exact encodeXYN_of_fieldOp_fieldN hop hn
  · exact h ▸ encodeNnn_of_fieldOp hop
  · exact h ▸ encodeNnn_of_fieldOp hop
  · exact h ▸ encodeXNn_of_fieldOp hop
  · exact h ▸ encodeXYN_of_fieldOp hop
  · exact (encode_of_decodeFamilyE h).trans (encodeXNn_of_fieldOp hop)
  · exact (encode_of_decodeFamilyF h).trans (encodeXNn_of_fieldOp hop)

/-- Settles O2: decoding inverts encoding and encoding inverts decoding. -/
theorem wordsAndInstructionsCorrespond : Obligations.WordsAndInstructionsCorrespond := by
  unfold Obligations.WordsAndInstructionsCorrespond
  intro w i
  exact ⟨encode_of_decodeWord, fun h => h ▸ decodeWord_encode i⟩

/-! ### Byte sequences -/

/-- The two bytes of a word, the high half first, make up the word (20_memory.md R33). -/
theorem highByte_append_lowByte (w : Word) : w.extractLsb' 8 8 ++ w.extractLsb' 0 8 = w :=
  (BitVec.extractLsb'_append_extractLsb'_eq_extractLsb' rfl).trans BitVec.extractLsb'_eq_self

theorem decode_cons_cons {hi lo : Byte} {i : Instr} (h : decodeWord (hi ++ lo) = some i) (rest : List Byte) :
    decode (hi :: lo :: rest) = .ok (i, rest) := by
  simp only [decode, h]

/-- Settles O1: the two bytes make up the encoded word, which decodes to the instruction. -/
theorem decodeOfEncodedBytes : Obligations.DecodeOfEncodedBytes := by
  unfold Obligations.DecodeOfEncodedBytes
  intro i rest
  refine ⟨wellFormed_all i, decode_cons_cons ?_ rest⟩
  rw [highByte_append_lowByte, decodeWord_encode]

/-! ### The rows of the table (30_encoding.md R56) -/

theorem rowSelects_rowOf_encode (i : Instr) : rowSelects (rowOf i) (encode i) := by
  cases i with
  | cls => exact Laws.EncodeSelectsRow.cls
  | ret => exact Laws.EncodeSelectsRow.ret
  | jpNnn => exact Laws.EncodeSelectsRow.jpNnn _
  | callNnn => exact Laws.EncodeSelectsRow.callNnn _
  | seVxNn => exact Laws.EncodeSelectsRow.seVxNn _ _
  | sneVxNn => exact Laws.EncodeSelectsRow.sneVxNn _ _
  | seVxVy => exact Laws.EncodeSelectsRow.seVxVy _ _
  | ldVxNn => exact Laws.EncodeSelectsRow.ldVxNn _ _
  | addVxNn => exact Laws.EncodeSelectsRow.addVxNn _ _
  | ldVxVy => exact Laws.EncodeSelectsRow.ldVxVy _ _
  | orVxVy => exact Laws.EncodeSelectsRow.orVxVy _ _
  | andVxVy => exact Laws.EncodeSelectsRow.andVxVy _ _
  | xorVxVy => exact Laws.EncodeSelectsRow.xorVxVy _ _
  | addVxVy => exact Laws.EncodeSelectsRow.addVxVy _ _
  | subVxVy => exact Laws.EncodeSelectsRow.subVxVy _ _
  | shrVxVy => exact Laws.EncodeSelectsRow.shrVxVy _ _
  | subnVxVy => exact Laws.EncodeSelectsRow.subnVxVy _ _
  | shlVxVy => exact Laws.EncodeSelectsRow.shlVxVy _ _
  | sneVxVy => exact Laws.EncodeSelectsRow.sneVxVy _ _
  | ldINnn => exact Laws.EncodeSelectsRow.ldINnn _
  | jpV0Nnn => exact Laws.EncodeSelectsRow.jpV0Nnn _
  | rndVxNn => exact Laws.EncodeSelectsRow.rndVxNn _ _
  | drwVxVyN => exact Laws.EncodeSelectsRow.drwVxVyN _ _ _
  | skpVx => exact Laws.EncodeSelectsRow.skpVx _
  | sknpVx => exact Laws.EncodeSelectsRow.sknpVx _
  | ldVxDt => exact Laws.EncodeSelectsRow.ldVxDt _
  | ldVxK => exact Laws.EncodeSelectsRow.ldVxK _
  | ldDtVx => exact Laws.EncodeSelectsRow.ldDtVx _
  | ldStVx => exact Laws.EncodeSelectsRow.ldStVx _
  | addIVx => exact Laws.EncodeSelectsRow.addIVx _
  | ldFVx => exact Laws.EncodeSelectsRow.ldFVx _
  | ldBVx => exact Laws.EncodeSelectsRow.ldBVx _
  | ldMemVx => exact Laws.EncodeSelectsRow.ldMemVx _
  | ldVxMem => exact Laws.EncodeSelectsRow.ldVxMem _

theorem rowOf_mem_opcodeRows (i : Instr) : rowOf i ∈ opcodeRows := by
  cases i <;> simp [rowOf, opcodeRows]

/-- The `match` word of each row, taken as an instruction word, decodes to an instruction of that row. -/
theorem map_rowOf_decodeWord_match : ∀ row ∈ opcodeRows, (decodeWord row.1).map rowOf = some row :=
  List.map_inj_left.1 rfl

/-- Two words that agree under a mask agree in every field that the mask covers. -/
theorem extractLsb'_eq_of_and_eq {v w m : Word} {lo len : Nat} (h : w &&& m = v &&& m)
    (hm : m.extractLsb' lo len = BitVec.allOnes len) : w.extractLsb' lo len = v.extractLsb' lo len := by
  have hfield := congrArg (BitVec.extractLsb' lo len) h
  rwa [BitVec.extractLsb'_and, BitVec.extractLsb'_and, hm, BitVec.and_allOnes, BitVec.and_allOnes] at hfield

/-- A word that a row selects has the fixed digits of that row's instruction, so the decoder takes the same branch. -/
theorem exists_decodeWord_of_rowSelects_rowOf {i : Instr} {w : Word} (h : rowSelects (rowOf i) w) :
    ∃ j, decodeWord w = some j ∧ rowOf j = rowOf i := by
  have hmask : w &&& (rowOf i).2 = encode i &&& (rowOf i).2 := h.trans (rowSelects_rowOf_encode i).symm
  cases i with
  | cls | ret =>
    obtain rfl : w = _ := BitVec.and_allOnes.symm.trans h
    exact ⟨_, rfl, rfl⟩
  | jpNnn | callNnn | ldINnn | jpV0Nnn | seVxNn | sneVxNn | ldVxNn | addVxNn | rndVxNn | drwVxVyN =>
    have hop : fieldOp w = fieldOp (encode _) := extractLsb'_eq_of_and_eq (m := 0xF000) hmask (by decide)
    simp [decodeWord, hop, encode, rowOf]
  | seVxVy | sneVxVy | ldVxVy | orVxVy | andVxVy | xorVxVy | addVxVy | subVxVy | shrVxVy | subnVxVy | shlVxVy =>
    have hop : fieldOp w = fieldOp (encode _) := extractLsb'_eq_of_and_eq (m := 0xF00F) hmask (by decide)
    have hn : fieldN w = fieldN (encode _) := extractLsb'_eq_of_and_eq (m := 0xF00F) hmask (by decide)
    simp [decodeWord, decodeFamily8, hop, hn, encode, rowOf]
  | skpVx | sknpVx | ldVxDt | ldVxK | ldDtVx | ldStVx | addIVx | ldFVx | ldBVx | ldMemVx | ldVxMem =>
    have hop : fieldOp w = fieldOp (encode _) := extractLsb'_eq_of_and_eq (m := 0xF0FF) hmask (by decide)
    have hnn : fieldNn w = fieldNn (encode _) := extractLsb'_eq_of_and_eq (m := 0xF0FF) hmask (by decide)
    simp [decodeWord, decodeFamilyE, decodeFamilyF, hop, hnn, encode, rowOf]

/-- A row that selects a word is the row of the instruction the word decodes to. -/
theorem exists_decodeWord_of_rowSelects {row : Word × Word} {w : Word} (hrow : row ∈ opcodeRows)
    (h : rowSelects row w) : ∃ i, decodeWord w = some i ∧ rowOf i = row := by
  obtain ⟨i, -, rfl⟩ := Option.map_eq_some_iff.1 (map_rowOf_decodeWord_match row hrow)
  exact exists_decodeWord_of_rowSelects_rowOf h

theorem rowSelects_rowOf_of_decodeWord {w : Word} {i : Instr} (h : decodeWord w = some i) : rowSelects (rowOf i) w :=
  encode_of_decodeWord h ▸ rowSelects_rowOf_encode i

/-- Settles O3. The row of the decoded instruction selects the word; and any row that selects a word is that of the
instruction it decodes to, so there is no second one, and none for an unrecognized word. -/
theorem decoderAgreesWithOpcodeRows : Obligations.DecoderAgreesWithOpcodeRows := by
  unfold Obligations.DecoderAgreesWithOpcodeRows
  intro w
  refine ⟨fun i hi => ⟨rowOf_mem_opcodeRows i, fun row hrow => ⟨fun hsel => ?unique, ?own⟩⟩,
    fun hnone row hrow hsel => ?recognized, fun hnot => ?unselected⟩
  case unique =>
    obtain ⟨j, hj, rfl⟩ := exists_decodeWord_of_rowSelects hrow hsel
    rw [Option.some.inj (hj.symm.trans hi)]
  case own => rintro rfl; exact rowSelects_rowOf_of_decodeWord hi
  case recognized =>
    obtain ⟨j, hj, -⟩ := exists_decodeWord_of_rowSelects hrow hsel
    rw [hnone] at hj; cases hj
  case unselected =>
    refine Option.eq_none_iff_forall_ne_some.2 fun i hi => ?_
    exact hnot (rowOf i) (rowOf_mem_opcodeRows i) (rowSelects_rowOf_of_decodeWord hi)

/-! ### The unrecognized words (30_encoding.md R58) -/

theorem decodeFamily0_eq_none_iff (w : Word) : decodeFamily0 w = none ↔ w ≠ 0x00E0 ∧ w ≠ 0x00EE := by
  simp [decodeFamily0, ite_eq_iff]

theorem decodeFamily8_eq_none_iff (x y n : Nibble) :
    decodeFamily8 x y n = none ↔ n ∈ [0x8#4, 0x9#4, 0xA#4, 0xB#4, 0xC#4, 0xD#4, 0xF#4] := by
  simp only [decodeFamily8, ite_eq_iff, reduceCtorEq, and_false, false_or, and_true]
  revert n; decide

theorem decodeFamilyE_eq_none_iff (x : Nibble) (nn : Byte) : decodeFamilyE x nn = none ↔ nn ∉ [0x9E#8, 0xA1#8] := by
  simp [decodeFamilyE, ite_eq_iff]

theorem decodeFamilyF_eq_none_iff (x : Nibble) (nn : Byte) :
    decodeFamilyF x nn = none ↔
      nn ∉ [0x07#8, 0x0A#8, 0x15#8, 0x18#8, 0x1E#8, 0x29#8, 0x33#8, 0x55#8, 0x65#8] := by
  simp [decodeFamilyF, ite_eq_iff]

/-- Settles O4. In each family the decoder's verdict is that of the family's own digits; the ten families with no case
of their own in the statement decode every word. -/
theorem unrecognizedWordsByFamily : Obligations.UnrecognizedWordsByFamily := by
  unfold Obligations.UnrecognizedWordsByFamily
  intro w
  obtain hop | hop | hop | hop | hop | hop | hop | hop | hop | hop | hop | hop | hop | hop | hop | hop :=
      nibble_cases (fieldOp w) <;>
    simp [decodeWord, hop, decodeFamily0_eq_none_iff, decodeFamily8_eq_none_iff, decodeFamilyE_eq_none_iff,
      decodeFamilyF_eq_none_iff]

/-- Settles O5 by running the decoder on the eleven words. -/
theorem sampleWordsDecode : Obligations.SampleWordsDecode := by
  unfold Obligations.SampleWordsDecode
  decide

/-- Settles O6, which is the rule for a state that fetches an instruction. -/
theorem stepRunsDecodedInstruction : Obligations.StepRunsDecodedInstruction := by
  unfold Obligations.StepRunsDecodedInstruction
  intro s i h
  exact Machine.State.Fetches.step_eq h

end Sys2Proof

/-! PROOF. Jumps and register skips (40_control_flow.md R72, R74 to R78): each of them writes `pc` and nothing else. -/

namespace Sys2Proof.Machine

/-! ### Jumps -/

/-- 1nnn always completes and replaces `pc` alone (R72). -/
theorem exec_jpNnn (nnn : Addr12) (s : State) : exec (.jpNnn nnn) s = .next (s.setPc (wordOfNnn nnn)) := rfl

/-- Bnnn always completes and replaces `pc` alone (R78). -/
theorem exec_jpV0Nnn (nnn : Addr12) (s : State) :
    exec (.jpV0Nnn nnn) s = .next (s.setPc ((s.getV 0).setWidth 16 + wordOfNnn nnn)) := rfl

theorem State.setPc_self (s : State) : s.setPc s.pc = s := rfl

/-- The sum of an 8-bit offset and a 12-bit address fits 16 bits, at most 0x10FE, so it does not wrap (R78). -/
theorem toNat_offset_add_wordOfNnn (b : Byte) (nnn : Addr12) :
    (b.setWidth 16 + wordOfNnn nnn).toNat = b.toNat + nnn.toNat := by
  have hb : (b.setWidth 16).toNat = b.toNat := BitVec.toNat_setWidth_of_le (by decide)
  have hn : (wordOfNnn nnn).toNat = nnn.toNat := BitVec.toNat_setWidth_of_le (by decide)
  rw [BitVec.toNat_add_of_lt (by omega), hb, hn]

/-- Settles O11. The self-jump sets `pc` to the value it has. -/
theorem jumpSetsPcOnly : Obligations.JumpSetsPcOnly := by
  unfold Obligations.JumpSetsPcOnly
  intro nnn s
  refine ⟨Laws.EncodeSelectsRow.jpNnn nnn, exec_jpNnn nnn s, fun hself => ?selfJump⟩
  case selfJump => rw [exec_jpNnn, wordOfNnn, hself, State.setPc_self]

/-- Settles O12. The sum does not wrap, and an offset of 0 leaves the target of 1nnn. -/
theorem indexedJumpAddsV0 : Obligations.IndexedJumpAddsV0 := by
  unfold Obligations.IndexedJumpAddsV0
  intro nnn s
  refine ⟨Laws.EncodeSelectsRow.jpV0Nnn nnn,
    ⟨_, exec_jpV0Nnn nnn s, toNat_offset_add_wordOfNnn (s.getV 0) nnn⟩, fun (hzero : s.getV 0 = 0#8) => ?zeroOffset⟩
  case zeroOffset => rw [exec_jpV0Nnn, exec_jpNnn, hzero, BitVec.setWidth_zero, BitVec.zero_add]

/-! ### Register skips -/

/-- A skip by a test that decides `p` goes on by 4 if `p` holds and by 2 otherwise, and writes `pc` alone (R70). -/
theorem State.skipIf_eq_of_iff {c : Bool} {p : Prop} [Decidable p] (h : c = true ↔ p) (s : State) :
    s.skipIf c = { s with pc := if p then s.pc + 4 else s.pc + 2 } := by
  simp only [State.skipIf, State.setPc, h]

/-- Settles O13. Each of the four instructions is a skip by its own test. -/
theorem registerSkips : Obligations.RegisterSkips := by
  unfold Obligations.RegisterSkips
  intro x y nn s
  refine ⟨⟨Laws.EncodeSelectsRow.seVxNn x nn, ?equalConstant⟩, ⟨Laws.EncodeSelectsRow.sneVxNn x nn, ?otherConstant⟩,
    ⟨Laws.EncodeSelectsRow.seVxVy x y, ?equalRegisters⟩, ⟨Laws.EncodeSelectsRow.sneVxVy x y, ?otherRegisters⟩⟩
  case equalConstant | equalRegisters => exact congrArg Host.Outcome.next (s.skipIf_eq_of_iff beq_iff_eq)
  case otherConstant | otherRegisters => exact congrArg Host.Outcome.next (s.skipIf_eq_of_iff bne_iff_ne)

end Sys2Proof.Machine

/-! PROOF. Loads and the ALU (41_load_and_alu.md R91 to R97): each of them writes registers and `pc`, and nothing else.
And the random input (R102): no instruction but Cxnn reads or writes it. -/

namespace Sys2Proof.Machine

/-! ### The call stack's two instructions, case by case (40_control_flow.md R71, R73) -/

theorem execRet_of_pos {s : State} (h : 0 < s.sp.val) :
    execRet s = .next { s with
      sp := ⟨s.sp.val - 1, by have := s.sp.isLt; omega⟩
      pc := s.stack[s.sp.val - 1]'(by have := s.sp.isLt; omega) } := by
  rw [execRet, (State.pop_some s _ _).2 ⟨h, rfl, rfl⟩]; rfl

theorem execRet_of_eq_zero {s : State} (h : s.sp.val = 0) :
    execRet s = .fault (.stackUnderflow (encode .ret) s.pc) := by
  rw [execRet, (State.pop_none s).2 h]; rfl

theorem execCallNnn_of_lt {s : State} (nnn : Addr12) (h : s.sp.val < 16) :
    execCallNnn nnn s = .next { s with
      stack := s.stack.set s.sp.val (s.pc + 2) h
      sp := ⟨s.sp.val + 1, by omega⟩
      pc := wordOfNnn nnn } := by
  rw [execCallNnn, (State.push_some s _ _).2 ⟨h, rfl⟩]; rfl

theorem execCallNnn_of_eq {s : State} (nnn : Addr12) (h : s.sp.val = 16) :
    execCallNnn nnn s = .fault (.stackOverflow (encode (.callNnn nnn)) s.pc) := by
  rw [execCallNnn, (State.push_none s _).2 h]; rfl

/-! ### The meanings that branch or recurse, under another random input -/

/-- The state with another random input and draw counter. -/
def State.withRandom (s : State) (l : List Byte) (d : Nat) : State := { s with rndIn := l, draws := d }

section
variable (s : State) (l : List Byte) (d : Nat)

theorem execRet_withRandom : execRet (s.withRandom l d) = mapNext (fun t => t.withRandom l d) (execRet s) := by
  rcases Nat.eq_zero_or_pos s.sp.val with hempty | hheld
  · rw [execRet_of_eq_zero hempty, execRet_of_eq_zero (s := s.withRandom l d) hempty]; rfl
  · rw [execRet_of_pos hheld, execRet_of_pos (s := s.withRandom l d) hheld]; rfl

theorem execCallNnn_withRandom (nnn : Addr12) :
    execCallNnn nnn (s.withRandom l d) = mapNext (fun t => t.withRandom l d) (execCallNnn nnn s) := by
  rcases Nat.lt_or_eq_of_le (Nat.le_of_lt_succ s.sp.isLt) with hroom | hfull
  · rw [execCallNnn_of_lt nnn hroom, execCallNnn_of_lt (s := s.withRandom l d) nnn hroom]; rfl
  · rw [execCallNnn_of_eq nnn hfull, execCallNnn_of_eq (s := s.withRandom l d) nnn hfull]; rfl

theorem execDrwVxVyN_withRandom (x y n : Nibble) :
    execDrwVxVyN x y n (s.withRandom l d) = mapNext (fun t => t.withRandom l d) (execDrwVxVyN x y n s) := by
  have hdraw : (s.withRandom l d).drawSprite x y n = s.drawSprite x y n :=
    Drawing.rows_congr (s := s) (t := s.withRandom l d) (fun _ => rfl) _ _ _ _
  rw [execDrwVxVyN, hdraw]; rfl

theorem execLdVxMem_withRandom (x : Nibble) :
    execLdVxMem x (s.withRandom l d) = mapNext (fun t => t.withRandom l d) (execLdVxMem x s) := by
  rw [execLdVxMem, State.loadBlock_comm (f := fun t => t.withRandom l d) (fun _ _ => rfl) (fun _ _ _ => rfl)]; rfl

theorem execSkpVx_withRandom (x : Nibble) :
    execSkpVx x (s.withRandom l d) = mapNext (fun t => t.withRandom l d) (execSkpVx x s) := by
  rw [execSkpVx, execSkpVx, apply_ite (mapNext _)]; rfl

theorem execSknpVx_withRandom (x : Nibble) :
    execSknpVx x (s.withRandom l d) = mapNext (fun t => t.withRandom l d) (execSknpVx x s) := by
  rw [execSknpVx, execSknpVx, apply_ite (mapNext _)]; rfl

theorem execLdVxK_withRandom (x : Nibble) :
    execLdVxK x (s.withRandom l d) = mapNext (fun t => t.withRandom l d) (execLdVxK x s) := by
  have hkey : (s.withRandom l d).firstKey = s.firstKey := rfl
  rw [execLdVxK, execLdVxK, hkey]
  cases s.firstKey <;> rfl

end

/-- Settles O45. Cxnn is excluded; the stack, the draw, the block load and the key instructions go
by their lemmas; every other meaning is a chain of record updates whose values the two fields do not enter, so both
sides unfold to the same state. -/
theorem randomInputReadOnlyByCxnn : Obligations.RandomInputReadOnlyByCxnn := by
  unfold Obligations.RandomInputReadOnlyByCxnn
  intro i s l d h
  cases i with
  | rndVxNn x nn => exact absurd rfl (h x nn)
  | ret => exact execRet_withRandom s l d
  | callNnn nnn => exact execCallNnn_withRandom s l d nnn
  | drwVxVyN x y n => exact execDrwVxVyN_withRandom s l d x y n
  | ldVxMem x => exact execLdVxMem_withRandom s l d x
  | ldVxK x => exact execLdVxK_withRandom s l d x
  | skpVx x => exact execSkpVx_withRandom s l d x
  | sknpVx x => exact execSknpVx_withRandom s l d x
  | cls | jpNnn | jpV0Nnn | seVxNn | sneVxNn | seVxVy | sneVxVy => rfl
  | ldVxNn | addVxNn | ldVxVy | orVxVy | andVxVy | xorVxVy | addVxVy | subVxVy | shrVxVy | subnVxVy | shlVxVy => rfl
  | ldINnn | addIVx | ldFVx | ldBVx | ldMemVx | ldVxDt | ldDtVx | ldStVx => rfl

/-! ### Instructions that write registers and go on to the next one -/

/-- A change of `v` and `pc` alone that keeps every register outside `regs` stays in the frame of `regs`. -/
theorem State.frame_of_regs {regs : Nibble → Prop} {s : State} {v : Vector Byte 16} {p : Word}
    (h : ∀ z, ¬ regs z → ({ s with v := v, pc := p } : State).getV z = s.getV z) :
    Frame { regs := regs } s { s with v := v, pc := p } where
  regs := h
  index _ := rfl
  stack _ := ⟨rfl, rfl⟩
  delay _ := rfl
  sound _ := rfl
  screen _ := ⟨fun _ _ => rfl, rfl⟩
  keys _ := rfl
  bytes _ _ := rfl
  random _ := ⟨rfl, rfl⟩

/-- What an instruction does whose meaning is to write `b` to `V[x]`. -/
theorem completes_of_setV {i : Instr} {s : State} {x : Nibble} {b : Byte}
    (h : exec i s = .next (s.setV x b).advance) :
    ∃ t, exec i s = .next t ∧ t.getV x = b ∧ t.pc = s.pc + 2 ∧ Frame { regs := fun z => z = x } s t :=
  ⟨_, h, s.getV_setV_self x b, rfl, State.frame_of_regs fun _ hz => s.getV_setV_other b hz⟩

/-- What an instruction does whose meaning is to write the flag `f` to VF and then `b` to `V[x]`: with `x` VF, `b`
stays (41_load_and_alu.md R103). -/
theorem completes_of_setFlagThenV {i : Instr} {s : State} {x : Nibble} {f b : Byte}
    (h : exec i s = .next (s.setFlagThenV f x b).advance) :
    ∃ t, exec i s = .next t ∧ t.getV x = b ∧ (x ≠ 0xF#4 → t.getV 0xF#4 = f) ∧ t.pc = s.pc + 2 ∧
      Frame { regs := fun z => z = x ∨ z = 0xF#4 } s t := by
  refine ⟨_, h, ?result, fun hx => ?flag, rfl, State.frame_of_regs fun z hz => ?others⟩
  case result => rw [State.advance_getV, State.getV_setFlagThenV, if_pos rfl]
  case flag => rw [State.advance_getV, State.getV_setFlagThenV, if_neg hx.symm, if_pos rfl]
  case others =>
    obtain ⟨hzx, hzf⟩ := not_or.1 hz
    exact (s.getV_setFlagThenV f x z b).trans ((if_neg hzx).trans (if_neg hzf))

/-- Settles O18. One register is written, with the constant. -/
theorem loadConstant : Obligations.LoadConstant := by
  unfold Obligations.LoadConstant
  intro x nn s
  exact ⟨Laws.EncodeSelectsRow.ldVxNn x nn, completes_of_setV rfl⟩

/-- Settles O19. The sum of two bytes is taken modulo 256. -/
theorem addConstantWithoutFlag : Obligations.AddConstantWithoutFlag := by
  unfold Obligations.AddConstantWithoutFlag
  intro x nn s
  obtain ⟨t, hexec, hsum, hpc, hframe⟩ := completes_of_setV (s := s) (i := .addVxNn x nn) (b := s.getV x + nn) rfl
  exact ⟨Laws.EncodeSelectsRow.addVxNn x nn, t, hexec, hsum ▸ BitVec.toNat_add _ _, hpc, hframe⟩

/-- Settles O20. One register is written, with the value the other held. -/
theorem copyRegister : Obligations.CopyRegister := by
  unfold Obligations.CopyRegister
  intro x y s
  exact ⟨Laws.EncodeSelectsRow.ldVxVy x y, completes_of_setV rfl⟩

/-- Settles O21. Bit `k` of each result is the library's lemma of that operation; one register is written. -/
theorem bitwiseOperations : Obligations.BitwiseOperations := by
  unfold Obligations.BitwiseOperations
  intro x y s
  refine ⟨⟨Laws.EncodeSelectsRow.orVxVy x y, ?or⟩, ⟨Laws.EncodeSelectsRow.andVxVy x y, ?and⟩,
    ⟨Laws.EncodeSelectsRow.xorVxVy x y, ?xor⟩⟩
  case or =>
    obtain ⟨t, hexec, hor, hrest⟩ :=
      completes_of_setV (s := s) (i := .orVxVy x y) (b := s.getV x ||| s.getV y) rfl
    exact ⟨t, hexec, fun _ => hor ▸ BitVec.getLsbD_or, hrest⟩
  case and =>
    obtain ⟨t, hexec, hand, hrest⟩ :=
      completes_of_setV (s := s) (i := .andVxVy x y) (b := s.getV x &&& s.getV y) rfl
    exact ⟨t, hexec, fun _ => hand ▸ BitVec.getLsbD_and, hrest⟩
  case xor =>
    obtain ⟨t, hexec, hxor, hrest⟩ :=
      completes_of_setV (s := s) (i := .xorVxVy x y) (b := s.getV x ^^^ s.getV y) rfl
    exact ⟨t, hexec, fun _ => hxor ▸ BitVec.getLsbD_xor, hrest⟩

theorem flagByte_decide (p : Prop) [Decidable p] : flagByte (decide p) = if p then 1 else 0 := by
  simp only [flagByte, decide_eq_true_eq]

/-- Settles O22. Both the sum and the carry come from the registers before the step; the sum is written last. -/
theorem addRegistersWithCarry : Obligations.AddRegistersWithCarry := by
  unfold Obligations.AddRegistersWithCarry
  intro x y s
  obtain ⟨t, hexec, hsum, hcarry, hrest⟩ := completes_of_setFlagThenV (s := s) (i := .addVxVy x y)
    (f := carryFlag (s.getV x) (s.getV y)) (b := s.getV x + s.getV y) rfl
  exact ⟨Laws.EncodeSelectsRow.addVxVy x y, t, hexec, hsum ▸ BitVec.toNat_add _ _,
    fun hx => (hcarry hx).trans (flagByte_decide _), hrest⟩

end Sys2Proof.Machine

/-! PROOF. Frames: what each operation keeps, and so what each instruction keeps (10_state.md, 42_index_and_memory.md
R116). And the index and memory instructions (R110, R112 to R115). -/

namespace Sys2Proof.Machine

/-! ### One rule per write: a change that `c` lists stays within the frame `c` -/

theorem Frame.refl (c : MayChange) (s : State) : Frame c s s where
  regs _ _ := rfl
  index _ := rfl
  stack _ := ⟨rfl, rfl⟩
  delay _ := rfl
  sound _ := rfl
  screen _ := ⟨fun _ _ => rfl, rfl⟩
  keys _ := rfl
  bytes _ _ := rfl
  random _ := ⟨rfl, rfl⟩

section
variable {c : MayChange} {s t : State}

/-- `pc` is outside every frame. The rules below read the same for `State.advance` and `State.skipIf`, which are writes
of `pc`. -/
theorem Frame.setPc (h : Frame c s t) (p : Word) : Frame c s (t.setPc p) :=
  { h with }

theorem Frame.setV (h : Frame c s t) {x : Nibble} (hx : c.regs x) (b : Byte) : Frame c s (t.setV x b) :=
  { h with
    regs := fun z hz =>
      have hzx : z ≠ x := fun e => hz (e ▸ hx)
      (t.getV_setV_other b hzx).trans (h.regs z hz) }

theorem Frame.setFlagThenV (h : Frame c s t) {x : Nibble} (hf : c.regs vf) (hx : c.regs x) (f b : Byte) :
    Frame c s (t.setFlagThenV f x b) :=
  (h.setV hf f).setV hx b

theorem Frame.setI (h : Frame c s t) (hc : c.index) (j : Word) : Frame c s (t.setI j) :=
  { h with index := absurd hc }

/-- A push or a pop, and the write of `pc` that goes with it in 2nnn and 00EE. -/
theorem Frame.setStack (h : Frame c s t) (hc : c.stack) (sp : Fin 17) (stack : Vector Word 16) (p : Word) :
    Frame c s { t with sp := sp, stack := stack, pc := p } :=
  { h with stack := absurd hc }

theorem Frame.setDt (h : Frame c s t) (hc : c.delay) (b : Byte) : Frame c s (t.setDt b) :=
  { h with delay := absurd hc }

theorem Frame.setSt (h : Frame c s t) (hc : c.sound) (b : Byte) : Frame c s (t.setSt b) :=
  { h with sound := absurd hc }

theorem Frame.setDisplay (h : Frame c s t) (hc : c.screen) (d : Display) : Frame c s (t.setDisplay d) :=
  { h with screen := absurd hc }

theorem Frame.rndUsed (h : Frame c s t) (hc : c.random) : Frame c s t.rndUsed := by
  unfold State.rndUsed
  cases t.rndIn with
  | nil => exact { h with random := absurd hc }
  | cons r l => exact { h with random := absurd hc }

theorem Frame.memWriteAll (h : Frame c s t) {a : Nat} {bs : List Byte}
    (hc : ∀ k < bs.length, c.bytes ((a + k) % 4096)) : Frame c s (t.memWriteAll a bs) :=
  { h with
    bytes := fun b hb =>
      have houtside : ∀ k < bs.length, b % 4096 ≠ (a + k) % 4096 := fun k hk e => hb (e ▸ hc k hk)
      (t.memRead_memWriteAll_outside a b bs houtside).trans (h.bytes b hb) }

theorem Frame.loadBlock (h : Frame c s t) {l : List Nat} (hl : ∀ k ∈ l, c.regs (BitVec.ofNat 4 k)) :
    Frame c s (t.loadBlock l) := by
  induction l generalizing t with
  | nil => exact h
  | cons k l ih =>
    rw [List.forall_mem_cons] at hl
    exact ih (h.setV hl.1 _) hl.2

end

/-! ### The meanings that branch -/

section
variable {s t : State}

theorem frame_of_execRet (h : execRet s = .next t) : Frame { stack := True } s t := by
  rcases Nat.eq_zero_or_pos s.sp.val with hempty | hheld
  · rw [execRet_of_eq_zero hempty] at h
    cases h
  · rw [execRet_of_pos hheld] at h
    cases h
    exact (Frame.refl _ s).setStack trivial _ _ _

theorem frame_of_execCallNnn {nnn : Addr12} (h : execCallNnn nnn s = .next t) : Frame { stack := True } s t := by
  rcases Nat.lt_or_eq_of_le (Nat.le_of_lt_succ s.sp.isLt) with hroom | hfull
  · rw [execCallNnn_of_lt nnn hroom] at h
    cases h
    exact (Frame.refl _ s).setStack trivial _ _ _
  · rw [execCallNnn_of_eq nnn hfull] at h
    cases h

/-- The shape of the two key skips: a fault, or a write of `pc` alone (44_keys_and_timers.md R130, R131). -/
theorem frame_of_raise_or_skipIf {p : Prop} [Decidable p] {f : Fault} {b : Bool}
    (h : (if p then raise f else .next (s.skipIf b)) = .next t) : Frame { } s t := by
  split at h
  · cases h
  · cases h
    exact (Frame.refl _ s).setPc _

theorem frame_of_execLdVxK {x : Nibble} (h : execLdVxK x s = .next t) : Frame { regs := fun z => z = x } s t := by
  unfold execLdVxK at h
  cases hkey : s.firstKey with
  | none =>
    rw [hkey] at h
    cases h
    exact Frame.refl _ s
  | some k =>
    rw [hkey] at h
    cases h
    exact ((Frame.refl _ s).setV rfl _).setPc _

end

/-! ### The whole machine -/

theorem mem_blockNumbers {x : Nibble} {k : Nat} : k ∈ blockNumbers x ↔ k ≤ x.toNat := by
  rw [blockNumbers, List.mem_range, Nat.lt_succ_iff]

theorem toNat_ofNat_le_of_mem_blockNumbers {x : Nibble} {k : Nat} (h : k ∈ blockNumbers x) :
    (BitVec.ofNat 4 k).toNat ≤ x.toNat :=
  (Nat.mod_le k _).trans (mem_blockNumbers.1 h)

/-- Settles O42. Each meaning is a chain of writes that its row of `mayChange` lists, and then a write of `pc`. -/
theorem everyInstructionKeepsItsFrame : Obligations.EveryInstructionKeepsItsFrame := by
  unfold Obligations.EveryInstructionKeepsItsFrame
  intro i s t h
  have hstart : Frame (mayChange s i) s s := Frame.refl _ s
  cases i with
  | ret => exact frame_of_execRet h
  | callNnn => exact frame_of_execCallNnn h
  | skpVx | sknpVx => exact frame_of_raise_or_skipIf h
  | ldVxK => exact frame_of_execLdVxK h
  | jpNnn | jpV0Nnn | seVxNn | sneVxNn | seVxVy | sneVxVy =>
    cases h
    exact hstart.setPc _
  | ldVxNn | addVxNn | ldVxVy | orVxVy | andVxVy | xorVxVy | ldVxDt =>
    cases h
    exact (hstart.setV rfl _).setPc _
  | addVxVy | subVxVy | shrVxVy | subnVxVy | shlVxVy =>
    cases h
    exact (hstart.setFlagThenV (.inr rfl) (.inl rfl) _ _).setPc _
  | ldINnn | addIVx | ldFVx =>
    cases h
    exact (hstart.setI trivial _).setPc _
  | ldDtVx =>
    cases h
    exact (hstart.setDt trivial _).setPc _
  | ldStVx =>
    cases h
    exact (hstart.setSt trivial _).setPc _
  | rndVxNn =>
    cases h
    exact ((hstart.rndUsed trivial).setV rfl _).setPc _
  | cls =>
    cases h
    exact (hstart.setDisplay trivial _).setPc _
  | drwVxVyN =>
    cases h
    exact ((hstart.setDisplay trivial _).setV rfl _).setPc _
  | ldBVx x =>
    cases h
    exact (hstart.memWriteAll (bs := decimalDigits (s.getV x)) fun k hk => ⟨k, hk, rfl⟩).setPc _
  | ldMemVx x =>
    cases h
    exact (hstart.memWriteAll fun k hk => ⟨k, s.blockValues_length x ▸ hk, rfl⟩).setPc _
  | ldVxMem =>
    cases h
    exact (hstart.loadBlock fun k hk => toNat_ofNat_le_of_mem_blockNumbers hk).setPc _

/-! ### The index register (42_index_and_memory.md R110, R112) -/

/-- Settles O27. Five times a byte is at most 1275, so the product does not wrap. -/
theorem indexLoads : Obligations.IndexLoads := by
  unfold Obligations.IndexLoads
  intro x nnn s
  refine ⟨⟨Laws.EncodeSelectsRow.ldINnn nnn, rfl⟩, Laws.EncodeSelectsRow.ldFVx x, _, rfl, ?fiveTimes⟩
  case fiveTimes =>
    have hbyte : ((s.getV x).setWidth 16).toNat = (s.getV x).toNat := BitVec.toNat_setWidth_of_le (by decide)
    have hfive : (5 : Word).toNat = 5 := rfl
    calc ((s.getV x).setWidth 16 * 5).toNat
      _ = (s.getV x).toNat * 5 % 2 ^ 16 := by rw [BitVec.toNat_mul, hbyte, hfive]
      _ = (s.getV x).toNat * 5 := Nat.mod_eq_of_lt (by omega)

/-! ### Decimal digits (42_index_and_memory.md R113) -/

@[simp] theorem decimalDigits_length (a : Byte) : (decimalDigits a).length = 3 := rfl

/-- A number that a byte bounds is kept by 8 bits. -/
theorem toNat_ofNat_of_le_byte (a : Byte) {n : Nat} (h : n ≤ a.toNat) : (BitVec.ofNat 8 n).toNat = n :=
  Nat.mod_eq_of_lt (h.trans_lt a.isLt)

/-- Settles O29. Each digit is at most the byte, so 8 bits keep it. -/
theorem decimalDigitsStored : Obligations.DecimalDigitsStored := by
  unfold Obligations.DecimalDigitsStored
  intro x s
  have hread (k : Nat) (hk : k < 3) :=
    congrArg BitVec.toNat (s.memRead_memWriteAll_inside (s.ea 0) (decimalDigits (s.getV x)) k hk (by simp))
  have hkept {n : Nat} := toNat_ofNat_of_le_byte (s.getV x) (n := n)
  refine ⟨Laws.EncodeSelectsRow.ldBVx x, _, rfl, ?hundreds, ?tens, ?ones, rfl,
    everyInstructionKeepsItsFrame (.ldBVx x) s _ rfl⟩
  case hundreds => exact (hread 0 (by decide)).trans (hkept (Nat.div_le_self _ _))
  case tens => exact (hread 1 (by decide)).trans (hkept ((Nat.mod_le _ _).trans (Nat.div_le_self _ _)))
  case ones => exact (hread 2 (by decide)).trans (hkept (Nat.mod_le _ _))

/-! ### The register block (42_index_and_memory.md R114, R115) -/

/-- Settles O30. The stored bytes are the block `V[0]` to `V[x]`; the frame is the instruction's own. -/
theorem registerBlockStored : Obligations.RegisterBlockStored := by
  unfold Obligations.RegisterBlockStored
  intro x s
  exact ⟨Laws.EncodeSelectsRow.ldMemVx x, _, rfl, fun _ hz => memRead_ea_of_exec_ldMemVx rfl hz, rfl,
    everyInstructionKeepsItsFrame (.ldMemVx x) s _ rfl⟩

/-- After Fx65 `V[z]` is the byte at `I + z`, for every `z` up to `x` (42_index_and_memory.md R115). -/
theorem getV_of_exec_ldVxMem {x z : Nibble} {s t : State} (h : exec (.ldVxMem x) s = .next t)
    (hz : z.toNat ≤ x.toNat) : t.getV z = s.memRead (s.ea z.toNat) := by
  cases h
  have hnumbers : ∀ k ∈ blockNumbers x, k < 16 := fun k hk => (mem_blockNumbers.1 hk).trans_lt x.isLt
  rw [State.advance_getV, State.getV_loadBlock _ _ hnumbers, if_pos (mem_blockNumbers.2 hz)]

theorem State.loadBlock_pc (s : State) (l : List Nat) : (s.loadBlock l).pc = s.pc := by
  obtain ⟨v, hv⟩ := s.loadBlock_frame l
  rw [hv]

/-- Settles O31. The loads write registers alone, and then `pc` advances. -/
theorem registerBlockLoaded : Obligations.RegisterBlockLoaded := by
  unfold Obligations.RegisterBlockLoaded
  intro x s
  exact ⟨Laws.EncodeSelectsRow.ldVxMem x, _, rfl, fun _ hz => getV_of_exec_ldVxMem rfl hz,
    congrArg (· + 2) (s.loadBlock_pc (blockNumbers x)), everyInstructionKeepsItsFrame (.ldVxMem x) s _ rfl⟩

/-- Settles O32. `V[z]` is loaded from the address at which it was stored. -/
theorem storeThenLoadRestoresRegisters : Obligations.StoreThenLoadRestoresRegisters := by
  unfold Obligations.StoreThenLoadRestoresRegisters
  intro x s t u hstore hindex hmem
  refine ⟨_, rfl, fun z hz => ?_⟩
  have hea : u.ea z.toNat = s.ea z.toNat := by rw [State.ea, State.ea, hindex]
  calc
    _ = u.memRead (u.ea z.toNat) := getV_of_exec_ldVxMem rfl hz
    _ = t.memRead (s.ea z.toNat) := by rw [hea, hmem]
    _ = s.getV z := memRead_ea_of_exec_ldMemVx hstore hz

end Sys2Proof.Machine

/-! PROOF. The display instructions (43_display.md R120 to R122). A draw flips a set of pixels, the targets of the set
sprite bits; each statement about Dxyn follows from that and from the targets being one for each set bit. -/

namespace Sys2Proof.Machine

/-- Settles O35. The blank display has every pixel off. -/
theorem clearScreen : Obligations.ClearScreen := by
  unfold Obligations.ClearScreen
  intro s
  exact ⟨Laws.EncodeSelectsRow.cls, _, rfl, Display.pixel_blank, rfl, rfl,
    everyInstructionKeepsItsFrame .cls s _ rfl⟩

/-! ### What one draw does -/

theorem State.mem_targets_iff_spriteHits (s : State) {x y n : Nibble} {px : Fin 64} {py : Fin 32} :
    (px, py) ∈ s.targets x y n ↔ s.SpriteHits x y n px py := by
  rw [State.mem_targets]
  simp only [State.SpriteHits, Prod.mk.injEq, Fin.ext_iff]
  rfl

/-- Some target of the sprite is on. -/
def State.SpriteCollides (s : State) (x y n : Nibble) : Prop :=
  ∃ px py, s.SpriteHits x y n px py ∧ s.pixel px py = true

theorem State.hit_drawSprite_iff (s : State) {x y n : Nibble} :
    (s.drawSprite x y n).hit = true ↔ s.SpriteCollides x y n := by
  simp only [State.hit_drawSprite, List.any_eq_true, Prod.exists, State.mem_targets_iff_spriteHits,
    State.SpriteCollides]

theorem flagByte_eq_one_iff {c : Bool} : flagByte c = 1 ↔ c = true := by
  cases c <;> decide

section
variable {x y n : Nibble} {s t : State} (h : exec (.drwVxVyN x y n) s = .next t)
include h

/-- Each target is flipped once and no other pixel changes (43_display.md R121). -/
theorem pixel_of_draw (px : Fin 64) (py : Fin 32) :
    t.pixel px py = (s.pixel px py ^^ decide ((px, py) ∈ s.targets x y n)) := by
  cases h
  exact s.pixel_drawSprite x y n px py

theorem pixel_ne_iff_of_draw (px : Fin 64) (py : Fin 32) :
    t.pixel px py ≠ s.pixel px py ↔ s.SpriteHits x y n px py := by
  rw [pixel_of_draw h, ← State.mem_targets_iff_spriteHits]
  by_cases htarget : (px, py) ∈ s.targets x y n
  · simp [htarget]
  · simp [htarget]

theorem vf_of_draw : t.getV 0xF#4 = flagByte (s.drawSprite x y n).hit := by
  cases h
  exact State.getV_setV_self _ _ _

theorem vf_eq_one_iff_of_draw : t.getV 0xF#4 = 1 ↔ s.SpriteCollides x y n := by
  rw [vf_of_draw h, flagByte_eq_one_iff, State.hit_drawSprite_iff]

theorem vf_eq_zero_of_draw (hclear : ¬ s.SpriteCollides x y n) : t.getV 0xF#4 = 0 := by
  rw [← State.hit_drawSprite_iff, Bool.not_eq_true] at hclear
  rw [vf_of_draw h, hclear]
  rfl

end

/-- Settles O36. The second VF clause says that no target is on, which is that the sprite does not collide. -/
theorem drawXorsSprite : Obligations.DrawXorsSprite := by
  unfold Obligations.DrawXorsSprite
  intro x y n s
  refine ⟨Laws.EncodeSelectsRow.drwVxVyN x y n, _, rfl, pixel_ne_iff_of_draw rfl, (vf_eq_one_iff_of_draw rfl).2,
    fun hoff => vf_eq_zero_of_draw rfl ?clear, rfl, rfl, everyInstructionKeepsItsFrame (.drwVxVyN x y n) s _ rfl⟩
  case clear =>
    rintro ⟨px, py, hhit, hon⟩
    exact Bool.false_ne_true ((hoff px py hhit).symm.trans hon)

/-! ### The same sprite twice (43_display.md R122) -/

/-- A sprite's targets are fixed by the bytes at `I` and the two coordinates. -/
theorem State.targets_congr {s t : State} {x y n : Nibble} (hi : t.i = s.i) (hmem : ∀ a, t.memRead a = s.memRead a)
    (hx : t.getV x = s.getV x) (hy : t.getV y = s.getV y) : t.targets x y n = s.targets x y n := by
  simp only [State.targets, State.ea, State.originX, State.originY, hi, hmem, hx, hy]

/-- Settles O37. Both draws flip the same pixels, so a target is on before the second exactly when it was off before
the first. -/
theorem drawTwiceRestoresDisplay : Obligations.DrawTwiceRestoresDisplay := by
  unfold Obligations.DrawTwiceRestoresDisplay
  intro x y n s t t' u hfirst hi hmem hx hy hpixels hsecond
  have htargets : t'.targets x y n = s.targets x y n := State.targets_congr hi hmem hx hy
  have hflipped (px py) : t'.pixel px py = (s.pixel px py ^^ decide ((px, py) ∈ s.targets x y n)) :=
    (hpixels px py).trans (pixel_of_draw hfirst px py)
  constructor
  · intro px py
    rw [pixel_of_draw hsecond, htargets, hflipped, Bool.xor_assoc, Bool.xor_self, Bool.xor_false]
  · rw [vf_eq_one_iff_of_draw hsecond]
    refine exists_congr fun px => exists_congr fun py => ?_
    rw [← State.mem_targets_iff_spriteHits, ← State.mem_targets_iff_spriteHits, htargets]
    refine and_congr_right fun hhit => ?_
    rw [hflipped, decide_eq_true hhit, Bool.xor_true, Bool.not_eq_true']

/-! ### How many pixels are on after a draw (43_display.md R122) -/

/-- The target of the sprite bit in row `b.1` and column `b.2`. -/
def State.bitTarget (s : State) (x y : Nibble) (b : Fin 16 × Fin 8) : Fin 64 × Fin 32 :=
  (columnAt (s.originX x) b.2.val, rowAt (s.originY y) b.1.val)

theorem State.bitTarget_injective (s : State) (x y : Nibble) : (s.bitTarget x y).Injective := by
  intro b c h
  obtain ⟨hcolumn, hrow⟩ := Prod.ext_iff.1 h
  exact Prod.ext (Fin.ext (rowAt_inj _ b.1.isLt c.1.isLt hrow)) (Fin.ext (columnAt_inj _ b.2.isLt c.2.isLt hcolumn))

theorem State.mem_image_bitTarget (s : State) {x y n : Nibble} {p : Fin 64 × Fin 32} :
    p ∈ s.bitTarget x y '' s.spriteBits n ↔ p ∈ s.targets x y n := by
  rw [State.mem_targets]
  constructor
  · rintro ⟨b, ⟨hrow, hset⟩, rfl⟩
    exact ⟨b.1, hrow, b.2, b.2.isLt, hset, rfl⟩
  · rintro ⟨r, hr, c, hc, hset, rfl⟩
    exact ⟨(⟨r, hr.trans n.isLt⟩, ⟨c, hc⟩), ⟨hr, hset⟩, rfl⟩

theorem State.mem_onPixels (s : State) {p : Fin 64 × Fin 32} : p ∈ s.onPixels ↔ s.pixel p.1 p.2 = true := Iff.rfl

theorem onPixels_of_draw {x y n : Nibble} {s t : State} (h : exec (.drwVxVyN x y n) s = .next t) :
    t.onPixels = symmDiff s.onPixels (s.bitTarget x y '' s.spriteBits n) := by
  ext p
  rw [Set.mem_symmDiff, State.mem_image_bitTarget, State.mem_onPixels, State.mem_onPixels, pixel_of_draw h]
  by_cases htarget : p ∈ s.targets x y n
  · simp [htarget]
  · simp [htarget]

/-- A symmetric difference counts both sets but leaves out their common part, which is in each of them. -/
theorem ncard_symmDiff_add {α : Type} [Finite α] (a b : Set α) :
    (symmDiff a b).ncard + 2 * (b ∩ a).ncard = a.ncard + b.ncard := by
  have hunion : (symmDiff a b).ncard = (a \ b).ncard + (b \ a).ncard := Set.ncard_union_eq disjoint_sdiff_sdiff
  have ha : (a ∩ b).ncard + (a \ b).ncard = a.ncard := Set.ncard_inter_add_ncard_sdiff_eq_ncard a b
  have hb : (b ∩ a).ncard + (b \ a).ncard = b.ncard := Set.ncard_inter_add_ncard_sdiff_eq_ncard b a
  rw [Set.inter_comm] at ha
  omega

/-- Settles O38. The draw leaves on the symmetric difference of the on pixels and the targets. The targets are as many as
the set bits, and those that were on as many as the collisions, because two bits never share a target. -/
theorem drawCountsPixels : Obligations.DrawCountsPixels := by
  unfold Obligations.DrawCountsPixels
  intro x y n s t h
  have hinj := s.bitTarget_injective x y
  calc
    _ = t.onPixels.ncard + 2 * (s.spriteBits n ∩ s.bitTarget x y ⁻¹' s.onPixels).ncard := rfl
    _ = t.onPixels.ncard + 2 * (s.bitTarget x y '' s.spriteBits n ∩ s.onPixels).ncard := by
      rw [← Set.image_inter_preimage, Set.ncard_image_of_injective _ hinj]
    _ = s.onPixels.ncard + (s.bitTarget x y '' s.spriteBits n).ncard := by
      rw [onPixels_of_draw h, ncard_symmDiff_add]
    _ = s.onPixels.ncard + (s.spriteBits n).ncard := by rw [Set.ncard_image_of_injective _ hinj]

end Sys2Proof.Machine

/-! PROOF. The timer instructions (44_keys_and_timers.md R133 to R135). -/

namespace Sys2Proof.Machine

/-- Settles O41. Fx07 writes one register, with `DT`; the meaning of each of the other two is one timer write. -/
theorem timerRegisters : Obligations.TimerRegisters := by
  unfold Obligations.TimerRegisters
  intro x s
  exact ⟨⟨Laws.EncodeSelectsRow.ldVxDt x, completes_of_setV rfl⟩, ⟨Laws.EncodeSelectsRow.ldDtVx x, rfl⟩,
    Laws.EncodeSelectsRow.ldStVx x, rfl⟩

end Sys2Proof.Machine

/-! PROOF. The faults of a step (60_exceptions.md R140 to R148), what no instruction reads (R152), the self-jump (R167),
and the transactions Reset and LoadProgram (R146, R161, R162). -/

namespace Sys2Proof.Machine

/-! ### The faults of a step -/

/-- Each cause makes the step answer its fault. A fault of an instruction reports that instruction's encoding, which is
the word it was decoded from. -/
theorem step_of_faultCause {s : State} {f : Fault} (h : FaultCause s f) : step s = .fault f := by
  cases f with
  | unknownInstruction w p =>
    obtain ⟨hnone, rfl, rfl⟩ := h
    rw [step, hnone]; rfl
  | stackOverflow w p =>
    obtain ⟨⟨nnn, hfetch⟩, hfull, rfl, rfl⟩ := h
    rw [hfetch.step_eq, ← encode_of_decodeWord hfetch]
    exact execCallNnn_of_eq nnn hfull
  | stackUnderflow w p =>
    obtain ⟨hfetch, hempty, rfl, rfl⟩ := h
    rw [hfetch.step_eq, ← encode_of_decodeWord hfetch]
    exact execRet_of_eq_zero hempty
  | keyIndexOutOfRange w p k =>
    obtain ⟨x, hfetch | hfetch, hrange, rfl, rfl, rfl⟩ := h
    · rw [hfetch.step_eq, ← encode_of_decodeWord hfetch]
      exact if_pos hrange
    · rw [hfetch.step_eq, ← encode_of_decodeWord hfetch]
      exact if_pos hrange
  | capacityError => exact h.elim

theorem exists_execLdVxK (x : Nibble) (s : State) : ∃ t, execLdVxK x s = .next t := by
  unfold execLdVxK
  cases s.firstKey with
  | none => exact ⟨_, rfl⟩
  | some k => exact ⟨_, rfl⟩

/-- An instruction completes when no cause of a fault holds: the call, the return and the two key skips each when their
own does not, every other one always. -/
theorem exec_next_or_faultCause {i : Instr} {s : State} (hfetch : s.Fetches i) :
    (∃ t, exec i s = .next t) ∨ ∃ f, FaultCause s f := by
  cases i with
  | callNnn nnn =>
    rcases Nat.lt_or_eq_of_le (Nat.le_of_lt_succ s.sp.isLt) with hroom | hfull
    · exact .inl ⟨_, execCallNnn_of_lt nnn hroom⟩
    · exact .inr ⟨.stackOverflow _ _, ⟨nnn, hfetch⟩, hfull, rfl, rfl⟩
  | ret =>
    rcases Nat.eq_zero_or_pos s.sp.val with hempty | hheld
    · exact .inr ⟨.stackUnderflow _ _, hfetch, hempty, rfl, rfl⟩
    · exact .inl ⟨_, execRet_of_pos hheld⟩
  | skpVx x =>
    by_cases hrange : (s.getV x).toNat > 15
    · exact .inr ⟨.keyIndexOutOfRange _ _ _, x, .inl hfetch, hrange, rfl, rfl, rfl⟩
    · exact .inl ⟨_, if_neg hrange⟩
  | sknpVx x =>
    by_cases hrange : (s.getV x).toNat > 15
    · exact .inr ⟨.keyIndexOutOfRange _ _ _, x, .inr hfetch, hrange, rfl, rfl, rfl⟩
    · exact .inl ⟨_, if_neg hrange⟩
  | ldVxK x => exact .inl (exists_execLdVxK x s)
  | cls | jpNnn | jpV0Nnn | seVxNn | sneVxNn | seVxVy | sneVxVy => exact .inl ⟨_, rfl⟩
  | ldVxNn | addVxNn | ldVxVy | orVxVy | andVxVy | xorVxVy | addVxVy | subVxVy | shrVxVy | subnVxVy | shlVxVy =>
    exact .inl ⟨_, rfl⟩
  | ldINnn | addIVx | ldFVx | ldBVx | ldMemVx | ldVxMem => exact .inl ⟨_, rfl⟩
  | rndVxNn | drwVxVyN | ldVxDt | ldDtVx | ldStVx => exact .inl ⟨_, rfl⟩

/-- A step completes or the cause of a fault holds; it is never refused. -/
theorem step_next_or_faultCause (s : State) : (∃ t, step s = .next t) ∨ ∃ f, FaultCause s f := by
  cases hdecode : decodeWord s.fetchWord with
  | none => exact .inr ⟨.unknownInstruction _ _, hdecode, rfl, rfl⟩
  | some i =>
    have hfetch : s.Fetches i := hdecode
    rw [hfetch.step_eq]
    exact exec_next_or_faultCause hfetch

theorem step_eq_fault_iff {s : State} {f : Fault} : step s = .fault f ↔ FaultCause s f := by
  refine ⟨fun hfault => ?_, step_of_faultCause⟩
  obtain ⟨t, hnext⟩ | ⟨g, hcause⟩ := step_next_or_faultCause s
  · cases hfault.symm.trans hnext
  · cases hfault.symm.trans (step_of_faultCause hcause)
    exact hcause

/-- Settles O9. Either the step completes or some cause holds, and a cause that holds names the step's one answer. -/
theorem stepFaultsExactlyOnItsCauses : Obligations.StepFaultsExactlyOnItsCauses := by
  unfold Obligations.StepFaultsExactlyOnItsCauses
  intro s
  exact ⟨(step_next_or_faultCause s).imp_right fun ⟨f, hcause⟩ => ⟨f, step_of_faultCause hcause⟩,
    fun _ => step_eq_fault_iff⟩

/-- Settles O7, the case of UnknownInstruction. -/
theorem unknownInstructionIsRaised : Obligations.UnknownInstructionIsRaised := by
  unfold Obligations.UnknownInstructionIsRaised
  intro s
  exact ⟨fun hnone => step_eq_fault_iff.2 ⟨hnone, rfl, rfl⟩, fun _ _ => step_eq_fault_iff.1⟩

/-! ### The self-jump (60_exceptions.md R167) -/

theorem safeFor_of_step_self {s : State} (h : step s = .next s) (k : Nat) : SafeFor k s := by
  induction k with
  | zero => trivial
  | succ k ih => exact ⟨s, h, ih⟩

/-- Settles O10. The jump sets `pc` to the value it has, so every step is from the same state. -/
theorem selfJumpRunsForEver : Obligations.SelfJumpRunsForEver := by
  unfold Obligations.SelfJumpRunsForEver
  intro s nnn hfetch hself
  have hstep : step s = .next s := by
    rw [hfetch.step_eq, exec_jpNnn, wordOfNnn, ← hself, State.setPc_self]
  exact ⟨hstep, safeFor_of_step_self hstep⟩

/-! ### The sound timer and the dirty flag (60_exceptions.md R152) -/

/-- The state with another sound timer and dirty flag. -/
def State.withSoundDirty (s : State) (b : Byte) (d : Bool) : State := { s with st := b, dirty := d }

/-- Two answers agree but for the sound timer and the dirty flag of the next state. -/
def AgreesButSoundDirty (r q : Result) : Prop :=
  mapNext (fun t => t.withSoundDirty 0 false) r = mapNext (fun t => t.withSoundDirty 0 false) q

section
variable (s : State) (b : Byte) (d : Bool)

theorem execRet_withSoundDirty : AgreesButSoundDirty (execRet (s.withSoundDirty b d)) (execRet s) := by
  rcases Nat.eq_zero_or_pos s.sp.val with hempty | hheld
  · rw [execRet_of_eq_zero hempty, execRet_of_eq_zero (s := s.withSoundDirty b d) hempty]; rfl
  · rw [execRet_of_pos hheld, execRet_of_pos (s := s.withSoundDirty b d) hheld]; rfl

theorem execCallNnn_withSoundDirty (nnn : Addr12) :
    AgreesButSoundDirty (execCallNnn nnn (s.withSoundDirty b d)) (execCallNnn nnn s) := by
  rcases Nat.lt_or_eq_of_le (Nat.le_of_lt_succ s.sp.isLt) with hroom | hfull
  · rw [execCallNnn_of_lt nnn hroom, execCallNnn_of_lt (s := s.withSoundDirty b d) nnn hroom]; rfl
  · rw [execCallNnn_of_eq nnn hfull, execCallNnn_of_eq (s := s.withSoundDirty b d) nnn hfull]; rfl

/-- The shape of the two key skips (44_keys_and_timers.md R130, R131). -/
theorem raise_or_skipIf_withSoundDirty (p : Prop) [Decidable p] (f : Fault) (c : Bool) :
    AgreesButSoundDirty (if p then raise f else .next ((s.withSoundDirty b d).skipIf c))
      (if p then raise f else .next (s.skipIf c)) := by
  by_cases h : p
  · rw [if_pos h, if_pos h]; rfl
  · rw [if_neg h, if_neg h]; rfl

theorem execLdVxK_withSoundDirty (x : Nibble) :
    AgreesButSoundDirty (execLdVxK x (s.withSoundDirty b d)) (execLdVxK x s) := by
  have hkey : (s.withSoundDirty b d).firstKey = s.firstKey := rfl
  rw [execLdVxK, execLdVxK, hkey]
  cases s.firstKey <;> rfl

theorem execRndVxNn_withSoundDirty (x : Nibble) (nn : Byte) :
    AgreesButSoundDirty (execRndVxNn x nn (s.withSoundDirty b d)) (execRndVxNn x nn s) := by
  have hused : (s.withSoundDirty b d).rndUsed = s.rndUsed.withSoundDirty b d := by
    unfold State.rndUsed State.withSoundDirty
    cases s.rndIn <;> rfl
  rw [execRndVxNn, hused]; rfl

theorem execDrwVxVyN_withSoundDirty (x y n : Nibble) :
    AgreesButSoundDirty (execDrwVxVyN x y n (s.withSoundDirty b d)) (execDrwVxVyN x y n s) := by
  have hdraw : (s.withSoundDirty b d).drawSprite x y n = s.drawSprite x y n :=
    Drawing.rows_congr (s := s) (t := s.withSoundDirty b d) (fun _ => rfl) _ _ _ _
  rw [execDrwVxVyN, hdraw]; rfl

theorem execLdVxMem_withSoundDirty (x : Nibble) :
    AgreesButSoundDirty (execLdVxMem x (s.withSoundDirty b d)) (execLdVxMem x s) := by
  rw [execLdVxMem, State.loadBlock_comm (f := fun t => t.withSoundDirty b d) (fun _ _ => rfl) (fun _ _ _ => rfl)]; rfl

end

/-- Settles O46. The stack, the key instructions, the random byte, the draw and the block load go by their lemmas; every
other meaning is a chain of record updates whose values the two fields do not enter, so both sides unfold to the same
state once the two are overwritten. -/
theorem soundTimerAndDirtyAreNotRead : Obligations.SoundTimerAndDirtyAreNotRead := by
  unfold Obligations.SoundTimerAndDirtyAreNotRead
  intro i s b d
  cases i with
  | ret => exact execRet_withSoundDirty s b d
  | callNnn nnn => exact execCallNnn_withSoundDirty s b d nnn
  | skpVx | sknpVx => exact raise_or_skipIf_withSoundDirty s b d _ _ _
  | ldVxK x => exact execLdVxK_withSoundDirty s b d x
  | rndVxNn x nn => exact execRndVxNn_withSoundDirty s b d x nn
  | drwVxVyN x y n => exact execDrwVxVyN_withSoundDirty s b d x y n
  | ldVxMem x => exact execLdVxMem_withSoundDirty s b d x
  | cls | jpNnn | jpV0Nnn | seVxNn | sneVxNn | seVxVy | sneVxVy => rfl
  | ldVxNn | addVxNn | ldVxVy | orVxVy | andVxVy | xorVxVy | addVxVy | subVxVy | shrVxVy | subnVxVy | shlVxVy => rfl
  | ldINnn | addIVx | ldFVx | ldBVx | ldMemVx | ldVxDt | ldDtVx | ldStVx => rfl

/-! ### Reset (60_exceptions.md R161) -/

theorem Memory.unlisted_of_lt {a : Nat} (h : a < 80) : Memory.unlisted a = Config.font ⟨a, h⟩ := dif_pos h

theorem Memory.unlisted_of_ge {a : Nat} (h : 80 ≤ a) : Memory.unlisted a = 0 := dif_neg (Nat.not_lt.2 h)

/-- Where memory lists nothing, an address of the machine reads as its reset contents. -/
theorem State.memRead_of_mem_nil {s : State} (h : s.mem = []) {a : Nat} (ha : a < 4096) :
    s.memRead a = Memory.unlisted a := by
  rw [State.memRead, h, Nat.mod_eq_of_lt ha, Memory.read]

/-- The random input is no element of the reset table, so it may be anything (log 20). -/
theorem resetValues_reset_withRandom (l : List Byte) (d : Nat) : ResetValues (State.reset.withRandom l d) where
  regs _ := Vector.getElem_replicate _
  pc := rfl
  index := rfl
  sp := rfl
  slots _ _ := Vector.getElem_replicate _
  delay := rfl
  sound := rfl
  keys _ := Vector.getElem_replicate _
  pixels := Display.pixel_blank
  dirty := rfl
  font a := (State.memRead_of_mem_nil rfl (a.isLt.trans (by decide))).trans (Memory.unlisted_of_lt a.isLt)
  zeros _ hfont hmem := (State.memRead_of_mem_nil rfl hmem).trans (Memory.unlisted_of_ge hfont)

/-- Settles O50. The transaction makes the reset state with the random input it found. -/
theorem resetGivesResetValues : Obligations.ResetGivesResetValues := by
  unfold Obligations.ResetGivesResetValues
  exact ⟨resetValues_reset_withRandom [] 0, fun s => ⟨rfl, resetValues_reset_withRandom s.rndIn s.draws⟩⟩

/-! ### LoadProgram (60_exceptions.md R146, R162) -/

theorem State.loadProgram_of_le (s : State) {bytes : List Byte} (h : bytes.length ≤ 3584) :
    s.loadProgram bytes = (s.memWriteAll 0x200 bytes, .ok) := if_neg (Nat.not_lt.2 h)

theorem State.loadProgram_of_gt (s : State) {bytes : List Byte} (h : 3584 < bytes.length) :
    s.loadProgram bytes = (s, .fault (.capacityError bytes.length)) := if_pos h

/-- Settles O53. The program area ends with memory, 0x200 + 3584 = 4096, so no address of a program that fits wraps. -/
theorem loadProgramCopiesOrRejects : Obligations.LoadProgramCopiesOrRejects := by
  unfold Obligations.LoadProgramCopiesOrRejects
  intro bytes s
  refine ⟨fun hfits => ⟨_, s.loadProgram_of_le hfits, fun k hk => ?copied, rfl, ?others⟩, s.loadProgram_of_gt⟩
  case copied => exact s.memRead_memWriteAll_inside 0x200 bytes k hk (by omega)
  case others =>
    refine (Frame.refl _ s).memWriteAll fun k hk => ?_
    rw [Nat.mod_eq_of_lt (by omega)]
    exact ⟨Nat.le_add_right _ _, Nat.add_lt_add_left hk _⟩

end Sys2Proof.Machine

/-! PROOF. The first step after reset, with no program (70_reset_and_hazards.md R171) and with one (R173). -/

namespace Sys2Proof.Machine

/-! ### With no program -/

/-- Memory is 0 from the end of the font up, so the word at the reset `pc` is 0x0000. -/
theorem State.fetchWord_reset : State.reset.fetchWord = 0x0000 := by
  have hzeros := resetGivesResetValues.1.zeros
  have hhigh : State.reset.memRead 0x200 = 0 := hzeros 0x200 (by decide) (by decide)
  have hlow : State.reset.memRead (0x200 + 1) = 0 := hzeros 0x201 (by decide) (by decide)
  rw [State.fetchWord_of_pc_mod (a := 0x200) rfl, hhigh, hlow]; rfl

/-- Settles O51. The word 0x0000 is none of the 34 instructions (the spec's decision D9), which is the cause of
UnknownInstruction. -/
theorem firstStepWithoutProgramFaults : Obligations.FirstStepWithoutProgramFaults := by
  unfold Obligations.FirstStepWithoutProgramFaults
  obtain ⟨hvalues, -⟩ := resetGivesResetValues
  have hnone : decodeWord State.reset.fetchWord = none := by rw [State.fetchWord_reset]; rfl
  exact ⟨hvalues.pc, hvalues.zeros 0x200 (by decide) (by decide), hvalues.zeros 0x201 (by decide) (by decide),
    step_of_faultCause ⟨hnone, State.fetchWord_reset.symm, hvalues.pc.symm⟩⟩

/-! ### With a program -/

/-- The word fetched after a write from `pc` up is its first two bytes, when the write is too short to come round
memory and overwrite them. -/
theorem State.fetchWord_memWriteAll {s : State} {a : Nat} (hpc : s.pc.toNat % 4096 = a % 4096) (hi lo : Byte)
    {rest : List Byte} (h : (hi :: lo :: rest).length ≤ 4096) :
    (s.memWriteAll a (hi :: lo :: rest)).fetchWord = hi ++ lo := by
  have hhigh := s.memRead_memWriteAll_inside a (hi :: lo :: rest) 0 (by simp) h
  have hlow := s.memRead_memWriteAll_inside a (hi :: lo :: rest) 1 (by simp) h
  rw [State.fetchWord_of_pc_mod (s := s.memWriteAll a _) hpc]
  exact congrArg₂ (· ++ ·) hhigh hlow

theorem transactAll_reset_loadProgram (s : State) {bytes : List Byte} (h : bytes.length ≤ 3584) :
    transactAll [.reset, .loadProgram bytes] s = s.hostReset.memWriteAll 0x200 bytes :=
  congrArg Prod.fst (s.hostReset.loadProgram_of_le h)

/-- Settles O52. Reset puts `pc` at 0x200, where LoadProgram writes the program. -/
theorem loadedProgramRunsFirst : Obligations.LoadedProgramRunsFirst := by
  unfold Obligations.LoadedProgramRunsFirst
  intro s hi lo rest i hrest hdecode
  have hfits : (hi :: lo :: rest).length ≤ 3584 := Nat.add_le_add_right hrest 2
  rw [transactAll_reset_loadProgram s hfits]
  have hword : (s.hostReset.memWriteAll 0x200 (hi :: lo :: rest)).fetchWord = hi ++ lo :=
    State.fetchWord_memWriteAll rfl hi lo (hfits.trans (by decide))
  have hfetch : (s.hostReset.memWriteAll 0x200 (hi :: lo :: rest)).Fetches i := by
    rw [State.Fetches, hword, hdecode]
  exact hfetch.step_eq

end Sys2Proof.Machine

/-! PROOF. What each meaning that can fault, wait or recurse leaves when it completes; the canonical form of memory in
every step (log 17); and where `pc` is after every instruction (40_control_flow.md R70). -/

namespace Sys2Proof.Machine

/-! ### The meanings that branch, when they complete -/

section
variable {s t : State}

/-- A return that completes had an address to pop (40_control_flow.md R71). -/
theorem eq_of_execRet_eq_next (h : execRet s = .next t) :
    ∃ _ : 0 < s.sp.val, t = { s with
      sp := ⟨s.sp.val - 1, by have := s.sp.isLt; omega⟩
      pc := s.stack[s.sp.val - 1]'(by have := s.sp.isLt; omega) } := by
  rcases Nat.eq_zero_or_pos s.sp.val with hempty | hheld
  · rw [execRet_of_eq_zero hempty] at h
    cases h
  · rw [execRet_of_pos hheld] at h
    cases h
    exact ⟨hheld, rfl⟩

/-- A call that completes had room for its return address (40_control_flow.md R73). -/
theorem eq_of_execCallNnn_eq_next {nnn : Addr12} (h : execCallNnn nnn s = .next t) :
    ∃ hroom : s.sp.val < 16, t = { s with
      stack := s.stack.set s.sp.val (s.pc + 2) hroom
      sp := ⟨s.sp.val + 1, by omega⟩
      pc := wordOfNnn nnn } := by
  rcases Nat.lt_or_eq_of_le (Nat.le_of_lt_succ s.sp.isLt) with hroom | hfull
  · rw [execCallNnn_of_lt nnn hroom] at h
    cases h
    exact ⟨hroom, rfl⟩
  · rw [execCallNnn_of_eq nnn hfull] at h
    cases h

/-- The shape of the two key skips (44_keys_and_timers.md R130, R131): one that completes did not raise its fault. -/
theorem eq_of_raise_or_skipIf_eq_next {p : Prop} [Decidable p] {f : Fault} {b : Bool}
    (h : (if p then raise f else .next (s.skipIf b)) = .next t) : ¬ p ∧ t = s.skipIf b := by
  by_cases hp : p
  · rw [if_pos hp] at h
    cases h
  · rw [if_neg hp] at h
    cases h
    exact ⟨hp, rfl⟩

theorem execLdVxK_of_firstKey_some {k : Nibble} (h : s.firstKey = some k) (x : Nibble) :
    execLdVxK x s = .next (s.setV x (k.setWidth 8)).advance := by
  rw [execLdVxK, h]

theorem execLdVxK_of_firstKey_none (h : s.firstKey = none) (x : Nibble) : execLdVxK x s = .next s := by
  rw [execLdVxK, h]

end

/-! ### Memory (20_memory.md, 42_index_and_memory.md R113, R114) -/

theorem State.loadBlock_mem (s : State) (l : List Nat) : (s.loadBlock l).mem = s.mem := by
  obtain ⟨v, hv⟩ := s.loadBlock_frame l
  rw [hv]

/-- What an instruction that completes does to memory is one write of consecutive bytes: no byte at all, but for Fx33
and Fx55. -/
theorem exists_mem_eq_writeAll_of_exec {i : Instr} {s t : State} (h : exec i s = .next t) :
    ∃ a bs, t.mem = (s.memWriteAll a bs).mem := by
  cases i with
  | ldBVx | ldMemVx =>
    cases h
    exact ⟨_, _, rfl⟩
  | ret =>
    obtain ⟨-, rfl⟩ := eq_of_execRet_eq_next h
    exact ⟨0, [], rfl⟩
  | callNnn =>
    obtain ⟨-, rfl⟩ := eq_of_execCallNnn_eq_next h
    exact ⟨0, [], rfl⟩
  | skpVx | sknpVx =>
    obtain ⟨-, rfl⟩ := eq_of_raise_or_skipIf_eq_next h
    exact ⟨0, [], rfl⟩
  | ldVxK x =>
    cases hkey : s.firstKey with
    | none =>
      cases (execLdVxK_of_firstKey_none hkey x).symm.trans h
      exact ⟨0, [], rfl⟩
    | some k =>
      cases (execLdVxK_of_firstKey_some hkey x).symm.trans h
      exact ⟨0, [], rfl⟩
  | rndVxNn =>
    cases h
    exact ⟨0, [], s.rndUsed_mem⟩
  | ldVxMem x =>
    cases h
    exact ⟨0, [], s.loadBlock_mem (blockNumbers x)⟩
  | cls | jpNnn | jpV0Nnn | seVxNn | sneVxNn | seVxVy | sneVxVy | drwVxVyN
  | ldVxNn | addVxNn | ldVxVy | orVxVy | andVxVy | xorVxVy | addVxVy | subVxVy | shrVxVy | subnVxVy | shlVxVy
  | ldINnn | addIVx | ldFVx | ldVxDt | ldDtVx | ldStVx =>
    cases h
    exact ⟨0, [], rfl⟩

/-- A step that completes ran the instruction it fetched. -/
theorem exists_exec_of_step {s t : State} (h : step s = .next t) : ∃ i, s.Fetches i ∧ exec i s = .next t := by
  cases hdecode : decodeWord s.fetchWord with
  | none =>
    have hcause : FaultCause s (.unknownInstruction s.fetchWord s.pc) := ⟨hdecode, rfl, rfl⟩
    cases (step_of_faultCause hcause).symm.trans h
  | some i =>
    have hfetch : s.Fetches i := hdecode
    exact ⟨i, hfetch, hfetch.step_eq ▸ h⟩

/-- Settles O47. Every instruction's effect on memory is a write of consecutive bytes, and each write keeps the form. -/
theorem stepKeepsMemoryCanonical : Obligations.StepKeepsMemoryCanonical := by
  unfold Obligations.StepKeepsMemoryCanonical
  intro s t hinv hstep
  obtain ⟨i, -, hexec⟩ := exists_exec_of_step hstep
  obtain ⟨a, bs, hmem⟩ := exists_mem_eq_writeAll_of_exec hexec
  rw [State.Inv, hmem]
  exact s.memWriteAll_wf a bs hinv

/-! ### The call and the return (40_control_flow.md R71, R73) -/

/-- Settles O14, by the two cases of the call: one slot is written where there is room, and none is left at 16. -/
theorem callPushesReturnAddress : Obligations.CallPushesReturnAddress := by
  unfold Obligations.CallPushesReturnAddress
  intro nnn s
  refine ⟨Laws.EncodeSelectsRow.callNnn nnn, fun hroom => ?room, execCallNnn_of_eq nnn⟩
  case room =>
    have hexec : exec (.callNnn nnn) s = _ := execCallNnn_of_lt nnn hroom
    exact ⟨_, hexec, rfl, Vector.getElem_set_self hroom, fun j hj hne => Vector.getElem_set_ne hroom hj hne.symm, rfl,
      everyInstructionKeepsItsFrame _ _ _ hexec⟩

/-- Settles O15, by the two cases of the return: `sp` and `pc` alone are written, unless nothing is held. -/
theorem returnPopsReturnAddress : Obligations.ReturnPopsReturnAddress := by
  unfold Obligations.ReturnPopsReturnAddress
  intro s
  refine ⟨Laws.EncodeSelectsRow.ret, fun hheld => ?held, execRet_of_eq_zero⟩
  case held =>
    have hexec : exec .ret s = _ := execRet_of_pos hheld
    exact ⟨_, hexec, rfl, rfl, rfl, everyInstructionKeepsItsFrame _ _ _ hexec⟩

/-- Settles O16. The call leaves its return address in the slot at the old `sp`, one below the `sp` at which the return
pops; the slots below it are not written. -/
theorem returnUndoesCall : Obligations.ReturnUndoesCall := by
  unfold Obligations.ReturnUndoesCall
  intro nnn s t u hcall hsp hstack
  obtain ⟨hroom, rfl⟩ := eq_of_execCallNnn_eq_next hcall
  have hspSucc : u.sp.val = s.sp.val + 1 := congrArg Fin.val hsp
  have hslot : u.sp.val - 1 = s.sp.val := by omega
  refine ⟨_, execRet_of_pos (by omega), ?pc, Fin.ext hslot, fun j hj hbelow => ?slots⟩
  case pc => simp only [hstack, hslot, Vector.getElem_set_self]
  case slots => simp only [hstack, Vector.getElem_set_ne hroom hj hbelow.ne']

/-! ### The program counter (40_control_flow.md R70) -/

/-- A skip by a test that decides `p` goes where the table says for `p`. -/
theorem skipsIf_skipIf {c : Bool} {p : Prop} (h : c = true ↔ p) (s : State) : SkipsIf s p (s.skipIf c).pc :=
  ⟨fun hp => if_pos (h.2 hp), fun hp => if_neg fun hc => hp (h.1 hc)⟩

/-- The key that a byte up to 15 names is its low digit (44_keys_and_timers.md R130). -/
theorem toNat_eq_byte_iff {b : Byte} (hb : ¬ b.toNat > 15) {k : Nibble} : k.toNat = b.toNat ↔ k = b.setWidth 4 := by
  have hlow : (b.setWidth 4).toNat = b.toNat := by rw [BitVec.toNat_setWidth]; omega
  rw [← hlow, BitVec.toNat_inj]

theorem State.exists_key_iff (s : State) {b : Byte} (hb : ¬ b.toNat > 15) (c : Bool) :
    (∃ k : Nibble, k.toNat = b.toNat ∧ s.keyDown k = c) ↔ s.keyDown (b.setWidth 4) = c := by
  simp only [toNat_eq_byte_iff hb, exists_eq_left]

/-- Fx0A goes on exactly when a key is pressed (44_keys_and_timers.md R132). -/
theorem pcAfter_ldVxK {x : Nibble} {s t : State} (h : exec (.ldVxK x) s = .next t) : PcAfter s t.pc (.ldVxK x) := by
  cases hkey : s.firstKey with
  | none =>
    cases (execLdVxK_of_firstKey_none hkey x).symm.trans h
    have hup := s.firstKey_none.1 hkey
    exact ⟨fun ⟨k, hdown⟩ => absurd ((hup k).symm.trans hdown) Bool.false_ne_true, fun _ => rfl⟩
  | some k =>
    cases (execLdVxK_of_firstKey_some hkey x).symm.trans h
    obtain ⟨hdown, -⟩ := (s.firstKey_some k).1 hkey
    exact ⟨fun _ => rfl, fun hup => absurd ((hup k).symm.trans hdown) Bool.false_ne_true⟩

/-- Settles O17, one row of the table for each instruction. -/
theorem pcAfterEveryInstruction : Obligations.PcAfterEveryInstruction := by
  unfold Obligations.PcAfterEveryInstruction
  intro i s t h
  cases i with
  | ret =>
    obtain ⟨-, rfl⟩ := eq_of_execRet_eq_next h
    rfl
  | callNnn =>
    obtain ⟨-, rfl⟩ := eq_of_execCallNnn_eq_next h
    rfl
  | jpNnn =>
    cases h
    rfl
  | jpV0Nnn nnn =>
    cases h
    exact toNat_offset_add_wordOfNnn (s.getV 0) nnn
  | seVxNn | seVxVy =>
    cases h
    exact skipsIf_skipIf beq_iff_eq s
  | sneVxNn | sneVxVy =>
    cases h
    exact skipsIf_skipIf bne_iff_ne s
  | skpVx =>
    obtain ⟨hrange, rfl⟩ := eq_of_raise_or_skipIf_eq_next h
    exact skipsIf_skipIf (s.exists_key_iff hrange true).symm s
  | sknpVx =>
    obtain ⟨hrange, rfl⟩ := eq_of_raise_or_skipIf_eq_next h
    exact skipsIf_skipIf ((Bool.not_eq_true' _).to_iff.trans (s.exists_key_iff hrange false).symm) s
  | ldVxK => exact pcAfter_ldVxK h
  | rndVxNn =>
    cases h
    exact congrArg (· + 2) s.rndUsed_pc
  | ldVxMem x =>
    cases h
    exact congrArg (· + 2) (s.loadBlock_pc (blockNumbers x))
  | cls | drwVxVyN | ldINnn | addIVx | ldFVx | ldBVx | ldMemVx | ldVxDt | ldDtVx | ldStVx
  | ldVxNn | addVxNn | ldVxVy | orVxVy | andVxVy | xorVxVy | addVxVy | subVxVy | shrVxVy | subnVxVy | shlVxVy =>
    cases h
    rfl

end Sys2Proof.Machine

/-! PROOF. The differences, the shifts and the random byte (41_load_and_alu.md R98 to R102); Fx1E, and that `I` is
observed modulo 4096 only (10_state.md R13, 42_index_and_memory.md R111); the key instructions (44_keys_and_timers.md
R130 to R132). -/

namespace Sys2Proof.Machine

/-! ### Differences and shifts -/

/-- The difference of two bytes modulo 256, with the borrowed 256 in front as the statements write it. -/
theorem toNat_sub_byte (a b : Byte) : (a - b).toNat = (256 + a.toNat - b.toNat) % 256 := by
  rw [BitVec.toNat_sub]
  omega

/-- Settles O23. Both the difference and the flag come from the registers before the step; the difference is written
last. -/
theorem subtractWithStrictFlag : Obligations.SubtractWithStrictFlag := by
  unfold Obligations.SubtractWithStrictFlag
  intro x y s
  obtain ⟨t, hexec, hdiff, hflag, hrest⟩ := completes_of_setFlagThenV (s := s) (i := .subVxVy x y)
    (f := greaterFlag (s.getV x) (s.getV y)) (b := s.getV x - s.getV y) rfl
  exact ⟨Laws.EncodeSelectsRow.subVxVy x y, t, hexec, hdiff ▸ toNat_sub_byte _ _,
    fun hx => (hflag hx).trans (flagByte_decide _), hrest⟩

/-- Settles O24, as O23 with the operands of the difference exchanged and the comparison not strict. -/
theorem reverseSubtractWithFlag : Obligations.ReverseSubtractWithFlag := by
  unfold Obligations.ReverseSubtractWithFlag
  intro x y s
  obtain ⟨t, hexec, hdiff, hflag, hrest⟩ := completes_of_setFlagThenV (s := s) (i := .subnVxVy x y)
    (f := notLessFlag (s.getV x) (s.getV y)) (b := s.getV y - s.getV x) rfl
  exact ⟨Laws.EncodeSelectsRow.subnVxVy x y, t, hexec, hdiff ▸ toNat_sub_byte _ _,
    fun hx => (hflag hx).trans (flagByte_decide _), hrest⟩

theorem toNat_lowBitFlag (b : Byte) : (lowBitFlag b).toNat = b.toNat % 2 :=
  (BitVec.toNat_and _ _).trans (Nat.and_one_is_mod _)

theorem toNat_highBitFlag (b : Byte) : (highBitFlag b).toNat = b.toNat / 128 := by
  revert b; decide

theorem toNat_shiftRight_one (b : Byte) : (b >>> 1).toNat = b.toNat / 2 := by
  rw [BitVec.toNat_ushiftRight, Nat.shiftRight_eq_div_pow, Nat.pow_one]

theorem toNat_shiftLeft_one (b : Byte) : (b <<< 1).toNat = 2 * b.toNat % 256 := by
  rw [BitVec.toNat_shiftLeft, Nat.shiftLeft_eq, Nat.pow_one, Nat.mul_comm]

/-- Settles O25. The result and the flag of each shift are computed from `V[y]` alone. -/
theorem shiftsTakeVy : Obligations.ShiftsTakeVy := by
  unfold Obligations.ShiftsTakeVy
  intro x y s
  refine ⟨⟨Laws.EncodeSelectsRow.shrVxVy x y, ?right⟩, ⟨Laws.EncodeSelectsRow.shlVxVy x y, ?left⟩⟩
  case right =>
    obtain ⟨t, hexec, hhalf, hflag, hrest⟩ := completes_of_setFlagThenV (s := s) (i := .shrVxVy x y)
      (f := lowBitFlag (s.getV y)) (b := s.getV y >>> 1) rfl
    exact ⟨t, hexec, hhalf ▸ toNat_shiftRight_one _, fun hx => hflag hx ▸ toNat_lowBitFlag _, hrest⟩
  case left =>
    obtain ⟨t, hexec, hdouble, hflag, hrest⟩ := completes_of_setFlagThenV (s := s) (i := .shlVxVy x y)
      (f := highBitFlag (s.getV y)) (b := s.getV y <<< 1) rfl
    exact ⟨t, hexec, hdouble ▸ toNat_shiftLeft_one _, fun hx => hflag hx ▸ toNat_highBitFlag _, hrest⟩

/-! ### The random byte (41_load_and_alu.md R102) -/

section
variable {s : State}

theorem State.rnd_of_cons {r : Byte} {l : List Byte} (h : s.rndIn = r :: l) : s.rnd = r := by
  rw [State.rnd, h]

theorem State.rnd_of_nil (h : s.rndIn = []) : s.rnd = Config.rnd s.draws := by
  rw [State.rnd, h]

theorem State.rndUsed_of_cons {r : Byte} {l : List Byte} (h : s.rndIn = r :: l) :
    s.rndUsed = { s with rndIn := l } := by
  rw [State.rndUsed, h]

theorem State.rndUsed_of_nil (h : s.rndIn = []) : s.rndUsed = { s with draws := s.draws + 1 } := by
  rw [State.rndUsed, h]

end

/-- Settles O26. The byte is that of `State.rnd`, and `State.rndUsed` uses up the one offered or counts the draw. -/
theorem randomByteIsMasked : Obligations.RandomByteIsMasked := by
  unfold Obligations.RandomByteIsMasked
  intro x nn s
  refine ⟨Laws.EncodeSelectsRow.rndVxNn x nn, _, s.rnd, rfl, s.rndUsed.getV_setV_self x _,
    congrArg (· + 2) s.rndUsed_pc, everyInstructionKeepsItsFrame (.rndVxNn x nn) s _ rfl,
    fun q l hoffered => ⟨State.rnd_of_cons hoffered, ?rest, ?sameCount⟩,
    fun hnone => ⟨State.rnd_of_nil hnone, ?empty, ?nextCount⟩⟩
  case rest => rw [State.advance_rndIn, State.setV_rndIn, State.rndUsed_of_cons hoffered]
  case sameCount => rw [State.advance_draws, State.setV_draws, State.rndUsed_of_cons hoffered]
  case empty => rw [State.advance_rndIn, State.setV_rndIn, State.rndUsed_of_nil hnone, hnone]
  case nextCount => rw [State.advance_draws, State.setV_draws, State.rndUsed_of_nil hnone]

/-! ### `I` modulo 4096 (10_state.md R13) -/

/-- Settles O28. The sum of two 16-bit words is taken modulo 2^16, and the byte extended to a word keeps its value. -/
theorem indexAdd : Obligations.IndexAdd := by
  unfold Obligations.IndexAdd
  intro x s
  have hbyte : ((s.getV x).setWidth 16).toNat = (s.getV x).toNat := BitVec.toNat_setWidth_of_le (by decide)
  refine ⟨Laws.EncodeSelectsRow.addIVx x, _, rfl, ?sum⟩
  case sum => rw [State.setI_i, BitVec.toNat_add, hbyte]

/-- The low 12 bits of a word are its value modulo 4096. -/
theorem toNat_and_low12 (a : Word) : (a &&& 0x0FFF).toNat = a.toNat % 4096 :=
  (BitVec.toNat_and _ _).trans (Nat.and_two_pow_sub_one_eq_mod _ 12)

theorem and_low12_eq_iff {a b : Word} : a &&& 0x0FFF = b &&& 0x0FFF ↔ a.toNat % 4096 = b.toNat % 4096 := by
  rw [← BitVec.toNat_inj, toNat_and_low12, toNat_and_low12]

/-- Two answers agree but for the bits of `I` above bit 11. -/
def AgreesButHighIndex (r q : Result) : Prop :=
  mapNext (fun t => { t with i := t.i &&& 0x0FFF }) r = mapNext (fun t => { t with i := t.i &&& 0x0FFF }) q

/-- Two next states agree if `I` does modulo 4096 and all else does: that is, if `setI` makes them equal. -/
theorem agreesButHighIndex_next {t u : State} (hrest : t.setI 0 = u.setI 0)
    (hindex : t.i.toNat % 4096 = u.i.toNat % 4096) : AgreesButHighIndex (.next t) (.next u) := by
  have hlow : t.i &&& 0x0FFF = u.i &&& 0x0FFF := and_low12_eq_iff.2 hindex
  have hset : t.setI (u.i &&& 0x0FFF) = u.setI (u.i &&& 0x0FFF) :=
    congrArg (fun w => w.setI (u.i &&& 0x0FFF)) hrest
  exact congrArg Host.Outcome.next ((congrArg t.setI hlow).trans hset)

/-- A write of consecutive bytes depends on its address modulo 4096 only. -/
theorem Memory.writeAll_mod (m : Memory) {a b : Nat} (h : a % 4096 = b % 4096) (bs : List Byte) :
    Memory.writeAll m a bs = Memory.writeAll m b bs := by
  induction bs generalizing m a b with
  | nil => rfl
  | cons v bs ih =>
    have hsucc : (a + 1) % 4096 = (b + 1) % 4096 := by omega
    rw [Memory.writeAll, Memory.writeAll, h, ih _ hsucc]

section
variable {s : State} {j : Word} (hj : j.toNat % 4096 = s.i.toNat % 4096)
include hj

theorem State.ea_setI_mod (k : Nat) : (s.setI j).ea k % 4096 = s.ea k % 4096 := by
  simp only [State.ea, State.setI_i]
  omega

theorem State.memRead_ea_setI (k : Nat) : (s.setI j).memRead ((s.setI j).ea k) = s.memRead (s.ea k) :=
  s.memRead_mod _ _ (State.ea_setI_mod hj k)

theorem State.loadBlock_setI (l : List Nat) : (s.setI j).loadBlock l = (s.loadBlock l).setI j := by
  induction l generalizing s with
  | nil => rfl
  | cons k l ih =>
    rw [State.loadBlock, State.loadBlock, State.memRead_ea_setI hj]
    exact ih (s := s.setV (BitVec.ofNat 4 k) _) hj

theorem State.drawSprite_setI (x y n : Nibble) : (s.setI j).drawSprite x y n = s.drawSprite x y n :=
  Drawing.rows_congr (s := s) (t := s.setI j) (State.memRead_ea_setI hj) _ _ _ _

/-- Fx33 and Fx55 write from `I` up. -/
theorem memWriteAll_setI (bs : List Byte) :
    AgreesButHighIndex (.next ((s.setI j).memWriteAll ((s.setI j).ea 0) bs).advance)
      (.next (s.memWriteAll (s.ea 0) bs).advance) := by
  have hmem : Memory.writeAll s.mem ((s.setI j).ea 0) bs = Memory.writeAll s.mem (s.ea 0) bs :=
    Memory.writeAll_mod _ (State.ea_setI_mod hj 0) bs
  exact agreesButHighIndex_next
    (congrArg (fun m => { s with i := 0, mem := m, pc := s.pc + 2 }) hmem) hj

theorem execRet_setI : AgreesButHighIndex (execRet (s.setI j)) (execRet s) := by
  rcases Nat.eq_zero_or_pos s.sp.val with hempty | hheld
  · rw [execRet_of_eq_zero hempty, execRet_of_eq_zero (s := s.setI j) hempty]; rfl
  · rw [execRet_of_pos hheld, execRet_of_pos (s := s.setI j) hheld]
    exact agreesButHighIndex_next rfl hj

theorem execCallNnn_setI (nnn : Addr12) : AgreesButHighIndex (execCallNnn nnn (s.setI j)) (execCallNnn nnn s) := by
  rcases Nat.lt_or_eq_of_le (Nat.le_of_lt_succ s.sp.isLt) with hroom | hfull
  · rw [execCallNnn_of_lt nnn hroom, execCallNnn_of_lt (s := s.setI j) nnn hroom]
    exact agreesButHighIndex_next rfl hj
  · rw [execCallNnn_of_eq nnn hfull, execCallNnn_of_eq (s := s.setI j) nnn hfull]; rfl

/-- The shape of the two key skips (44_keys_and_timers.md R130, R131). -/
theorem raise_or_skipIf_setI (p : Prop) [Decidable p] (f : Fault) (c : Bool) :
    AgreesButHighIndex (if p then raise f else .next ((s.setI j).skipIf c))
      (if p then raise f else .next (s.skipIf c)) := by
  by_cases h : p
  · rw [if_pos h, if_pos h]; rfl
  · rw [if_neg h, if_neg h]
    exact agreesButHighIndex_next rfl hj

theorem execLdVxK_setI (x : Nibble) : AgreesButHighIndex (execLdVxK x (s.setI j)) (execLdVxK x s) := by
  cases hkey : s.firstKey with
  | none =>
    rw [execLdVxK_of_firstKey_none hkey, execLdVxK_of_firstKey_none (s := s.setI j) hkey]
    exact agreesButHighIndex_next rfl hj
  | some k =>
    rw [execLdVxK_of_firstKey_some hkey, execLdVxK_of_firstKey_some (s := s.setI j) hkey]
    exact agreesButHighIndex_next rfl hj

theorem execRndVxNn_setI (x : Nibble) (nn : Byte) :
    AgreesButHighIndex (execRndVxNn x nn (s.setI j)) (execRndVxNn x nn s) := by
  have hused : (s.setI j).rndUsed = s.rndUsed.setI j := by
    unfold State.rndUsed State.setI
    cases s.rndIn <;> rfl
  rw [execRndVxNn, hused]
  exact agreesButHighIndex_next rfl (hj.trans (congrArg (·.toNat % 4096) s.rndUsed_i.symm))

theorem execDrwVxVyN_setI (x y n : Nibble) :
    AgreesButHighIndex (execDrwVxVyN x y n (s.setI j)) (execDrwVxVyN x y n s) := by
  rw [execDrwVxVyN, State.drawSprite_setI hj]
  exact agreesButHighIndex_next rfl hj

theorem execLdVxMem_setI (x : Nibble) : AgreesButHighIndex (execLdVxMem x (s.setI j)) (execLdVxMem x s) := by
  obtain ⟨v, hv⟩ := s.loadBlock_frame (blockNumbers x)
  rw [execLdVxMem, State.loadBlock_setI hj, execLdVxMem, hv]
  exact agreesButHighIndex_next rfl hj

/-- The sum of Fx1E is congruent too, because 4096 divides 2^16 (the spec's decision D3). -/
theorem execAddIVx_setI (x : Nibble) : AgreesButHighIndex (execAddIVx x (s.setI j)) (execAddIVx x s) := by
  refine agreesButHighIndex_next rfl ?_
  show (j + (s.getV x).setWidth 16).toNat % 4096 = (s.i + (s.getV x).setWidth 16).toNat % 4096
  rw [BitVec.toNat_add, BitVec.toNat_add]
  omega

end

/-- Settles O34. Memory is reached at `I` modulo 4096 and Fx1E keeps the congruence; Annn and Fx29 overwrite `I`; every
other meaning is a chain of record updates whose values `I` does not enter. -/
theorem indexObservedModulo4096 : Obligations.IndexObservedModulo4096 := by
  unfold Obligations.IndexObservedModulo4096
  intro i s j hj
  cases i with
  | ret => exact execRet_setI hj
  | callNnn nnn => exact execCallNnn_setI hj nnn
  | skpVx | sknpVx => exact raise_or_skipIf_setI hj _ _ _
  | ldVxK x => exact execLdVxK_setI hj x
  | rndVxNn x nn => exact execRndVxNn_setI hj x nn
  | drwVxVyN x y n => exact execDrwVxVyN_setI hj x y n
  | ldVxMem x => exact execLdVxMem_setI hj x
  | ldBVx | ldMemVx => exact memWriteAll_setI hj _
  | addIVx x => exact execAddIVx_setI hj x
  | ldINnn | ldFVx => rfl
  | cls | jpNnn | jpV0Nnn | seVxNn | sneVxNn | seVxVy | sneVxVy | ldVxDt | ldDtVx | ldStVx
  | ldVxNn | addVxNn | ldVxVy | orVxVy | andVxVy | xorVxVy | addVxVy | subVxVy | shrVxVy | subnVxVy | shlVxVy =>
    exact agreesButHighIndex_next rfl hj

/-! ### The key instructions (44_keys_and_timers.md R130 to R132) -/

/-- Settles O39. A `V[x]` that is a key number is at most 15, so the fault is not raised and the low digit is that
number. -/
theorem keySkips : Obligations.KeySkips := by
  unfold Obligations.KeySkips
  intro x k s
  refine ⟨Laws.EncodeSelectsRow.skpVx x, Laws.EncodeSelectsRow.sknpVx x, fun hkey => ?inRange,
    fun hrange => ⟨if_pos hrange, if_pos hrange⟩⟩
  case inRange =>
    have hrange : ¬ (s.getV x).toNat > 15 := by have := k.isLt; omega
    obtain rfl : k = (s.getV x).setWidth 4 := (toNat_eq_byte_iff hrange).1 hkey.symm
    exact ⟨(if_neg hrange).trans (congrArg _ (s.skipIf_eq_of_iff Iff.rfl)),
      (if_neg hrange).trans (congrArg _ (s.skipIf_eq_of_iff (Bool.not_eq_true' _).to_iff))⟩

/-- Settles O40. The hypotheses of the two clauses are the two answers of `State.firstKey`. -/
theorem waitForKey : Obligations.WaitForKey := by
  unfold Obligations.WaitForKey
  intro x s
  refine ⟨Laws.EncodeSelectsRow.ldVxK x, fun k hdown hlowest => ?pressed, fun hup => ?none⟩
  case pressed =>
    have hkey : s.firstKey = some k := (s.firstKey_some k).2 ⟨hdown, hlowest⟩
    obtain ⟨t, hexec, hv, hrest⟩ := completes_of_setV (i := .ldVxK x) (execLdVxK_of_firstKey_some hkey x)
    exact ⟨t, hexec, hv ▸ BitVec.toNat_setWidth_of_le (by decide), hrest⟩
  case none => exact execLdVxK_of_firstKey_none (s.firstKey_none.2 hup) x

end Sys2Proof.Machine

/-! PROOF. The host's transactions (60_exceptions.md R141, R160 to R166): the step with an offered byte, what the others
change, and what every run of them keeps. -/

namespace Sys2Proof.Machine

/-! ### The step of the host (30_encoding.md R50) -/

/-- The cause of a fault is in the registers, `pc`, `sp` and memory. -/
theorem FaultCause.congr {s t : State} {f : Fault} (h : FaultCause s f) (hv : t.v = s.v) (hpc : t.pc = s.pc)
    (hsp : t.sp = s.sp) (hmem : t.mem = s.mem) : FaultCause t f := by
  have hregs : t.getV = s.getV := by funext z; simp only [State.getV, hv]
  have hword : t.fetchWord = s.fetchWord := by simp only [State.fetchWord, State.memRead, hpc, hmem]
  cases f with
  | unknownInstruction | stackOverflow | stackUnderflow | keyIndexOutOfRange =>
    simpa only [FaultCause, State.Fetches, hregs, hword, hpc, hsp] using h
  | capacityError => exact h

theorem State.hostStep_of_next {s t : State} {r : Byte} (h : step (s.withRandom (r :: s.rndIn) s.draws) = .next t) :
    s.hostStep r = ({ t with rndIn := s.rndIn }, .ok) := by
  unfold State.withRandom at h
  rw [State.hostStep, h]

theorem State.hostStep_of_faultCause {s : State} {f : Fault} (h : FaultCause s f) (r : Byte) :
    s.hostStep r = (s, .fault f) := by
  have hfault := step_of_faultCause (h.congr (t := s.withRandom (r :: s.rndIn) s.draws) rfl rfl rfl rfl)
  unfold State.withRandom at hfault
  rw [State.hostStep, hfault]

/-- `Step(rnd)` completes, or faults by a cause that holds in the state as it was. -/
theorem State.hostStep_cases (s : State) (r : Byte) :
    (∃ t, step (s.withRandom (r :: s.rndIn) s.draws) = .next t ∧
        s.hostStep r = ({ t with rndIn := s.rndIn }, .ok)) ∨
      ∃ f, FaultCause s f ∧ s.hostStep r = (s, .fault f) := by
  obtain ⟨t, hnext⟩ | ⟨f, hcause⟩ := step_next_or_faultCause (s.withRandom (r :: s.rndIn) s.draws)
  · exact .inl ⟨t, hnext, State.hostStep_of_next hnext⟩
  · have hcause' : FaultCause s f := hcause.congr rfl rfl rfl rfl
    exact .inr ⟨f, hcause', State.hostStep_of_faultCause hcause' r⟩

theorem State.hostStep_eq_fault_iff {s : State} {r : Byte} {f : Fault} :
    (s.hostStep r).2 = .fault f ↔ FaultCause s f := by
  refine ⟨fun hfault => ?_, fun hcause => congrArg Prod.snd (State.hostStep_of_faultCause hcause r)⟩
  obtain ⟨t, -, hstep⟩ | ⟨g, hcause, hstep⟩ := s.hostStep_cases r
  · rw [hstep] at hfault
    cases hfault
  · rw [hstep] at hfault
    cases hfault
    exact hcause

/-- The step of a Cxnn takes the byte offered with it, and puts the random input back (log 2). -/
theorem State.Fetches.hostStep_rndVxNn {s : State} {x : Nibble} {nn : Byte} (h : s.Fetches (.rndVxNn x nn)) (r : Byte) :
    s.hostStep r = ((s.setV x (r &&& nn)).advance, .ok) := by
  have hfetch : (s.withRandom (r :: s.rndIn) s.draws).Fetches (.rndVxNn x nn) := h
  exact State.hostStep_of_next hfetch.step_eq

/-- The step of any other instruction that completes does what it does without the offered byte. -/
theorem State.hostStep_of_not_rndVxNn {s t : State} (hother : ∀ x nn, ¬ s.Fetches (.rndVxNn x nn))
    (h : step s = .next t) (r : Byte) : s.hostStep r = (t, .ok) := by
  obtain ⟨i, hfetch, hexec⟩ := exists_exec_of_step h
  have hi : ∀ x nn, i ≠ .rndVxNn x nn := fun x nn e => hother x nn (e ▸ hfetch)
  have hfetch' : (s.withRandom (r :: s.rndIn) s.draws).Fetches i := hfetch
  have hoffered := randomInputReadOnlyByCxnn i s (r :: s.rndIn) s.draws hi
  have hown := randomInputReadOnlyByCxnn i s s.rndIn s.draws hi
  rw [hexec] at hoffered hown
  have ht : t = t.withRandom s.rndIn s.draws := Host.Outcome.next.inj hown
  rw [State.hostStep_of_next (hfetch'.step_eq.trans hoffered)]
  exact congrArg (·, Response.ok) ht.symm

/-- Settles O56, by the rule for a Cxnn, the rule for any other instruction, and the rule for a fault. -/
theorem hostStepSuppliesRandomByte : Obligations.HostStepSuppliesRandomByte := by
  unfold Obligations.HostStepSuppliesRandomByte
  intro r s
  refine ⟨fun x nn hfetch => ?cxnn, fun hother => ⟨fun t hnext => ?completes, fun f hfault => ?faults⟩⟩
  case cxnn =>
    exact ⟨_, hfetch.hostStep_rndVxNn r, s.getV_setV_self x _, rfl, ((Frame.refl _ s).setV rfl _).setPc _⟩
  case completes => exact State.hostStep_of_not_rndVxNn hother hnext r
  case faults => exact State.hostStep_of_faultCause (step_eq_fault_iff.1 hfault) r

/-! ### Faults (60_exceptions.md R141) -/

/-- LoadProgram writes the bytes, or rejects them all and changes nothing (60_exceptions.md R146, R162). -/
theorem State.loadProgram_cases (s : State) (bytes : List Byte) :
    s.loadProgram bytes = (s.memWriteAll 0x200 bytes, .ok) ∨
      s.loadProgram bytes = (s, .fault (.capacityError bytes.length)) :=
  (Nat.lt_or_ge 3584 bytes.length).symm.imp s.loadProgram_of_le s.loadProgram_of_gt

/-- Settles O54. Only a step and a load answer faults. -/
theorem faultChangesNothing : Obligations.FaultChangesNothing := by
  unfold Obligations.FaultChangesNothing
  intro t s f hfault
  cases t with
  | step r => exact congrArg Prod.fst (State.hostStep_of_faultCause (State.hostStep_eq_fault_iff.1 hfault) r)
  | loadProgram bytes =>
    obtain hcopied | hrejected := s.loadProgram_cases bytes
    · cases (congrArg Prod.snd hcopied).symm.trans hfault
    · exact congrArg Prod.fst hrejected
  | reset | setKey | getDelay | getSound | setDelay | setSound | timerTick | readDisplay | clearDirty => cases hfault

/-- A step from a state with the cause of a fault changes nothing; the other gentle transactions write none of what the
cause is in. -/
theorem faultCause_transact_of_gentle {t : Transaction} (hgentle : t.Gentle) {s : State} {f : Fault}
    (h : FaultCause s f) : FaultCause (transact t s).1 f := by
  cases t with
  | reset | loadProgram => exact hgentle.elim
  | step r =>
    have hstep : (transact (.step r) s).1 = s := congrArg Prod.fst (State.hostStep_of_faultCause h r)
    rwa [hstep]
  | setKey | getDelay | getSound | setDelay | setSound | timerTick | readDisplay | clearDirty =>
    exact h.congr rfl rfl rfl rfl

theorem faultCause_transactAll_of_gentle {ts : List Transaction} (hgentle : ∀ t ∈ ts, t.Gentle) {s : State}
    {f : Fault} (h : FaultCause s f) : FaultCause (transactAll ts s) f := by
  induction ts generalizing s with
  | nil => exact h
  | cons t ts ih =>
    rw [List.forall_mem_cons] at hgentle
    exact ih hgentle.2 (faultCause_transact_of_gentle hgentle.1 h)

/-- Settles O55. The step faults exactly when the fault's cause holds, and the cause holds after any gentle
transactions. -/
theorem faultRepeatsUntilResetOrLoad : Obligations.FaultRepeatsUntilResetOrLoad := by
  unfold Obligations.FaultRepeatsUntilResetOrLoad
  intro s r q f ts hfault hgentle
  have hcause : FaultCause s f := State.hostStep_eq_fault_iff.1 hfault
  exact State.hostStep_eq_fault_iff.2 (faultCause_transactAll_of_gentle hgentle hcause)

/-! ### The canonical form of memory (log 17) -/

/-- Settles O48. Memory lists nothing at reset. -/
theorem resetMemoryIsCanonical : Obligations.ResetMemoryIsCanonical := Memory.wf_nil

theorem State.Inv.transact {s : State} (h : s.Inv) (t : Transaction) : (transact t s).1.Inv := by
  cases t with
  | reset => exact Memory.wf_nil
  | loadProgram bytes =>
    obtain hcopied | hrejected := s.loadProgram_cases bytes
    · rw [Machine.transact, hcopied]
      exact s.memWriteAll_wf 0x200 bytes h
    · rw [Machine.transact, hrejected]
      exact h
  | step r =>
    obtain ⟨u, hnext, hstep⟩ | ⟨f, -, hstep⟩ := s.hostStep_cases r
    · rw [Machine.transact, hstep]
      exact stepKeepsMemoryCanonical (s.withRandom (r :: s.rndIn) s.draws) u h hnext
    · rw [Machine.transact, hstep]
      exact h
  | setKey | getDelay | getSound | setDelay | setSound | timerTick | readDisplay | clearDirty => exact h

/-- Settles O49, by induction on the transactions since reset. -/
theorem reachableMemoryIsCanonical : Obligations.ReachableMemoryIsCanonical := by
  unfold Obligations.ReachableMemoryIsCanonical
  intro s hreach
  induction hreach with
  | reset => exact resetMemoryIsCanonical
  | transact t _ ih => exact ih.transact t

/-! ### Keys and the dirty flag in every step (10_state.md R17, R18) -/

/-- Only the two display instructions may change the screen, and both leave it dirty. -/
theorem dirty_of_exec_of_mayChange_screen {i : Instr} {s t : State} (h : exec i s = .next t)
    (hscreen : (mayChange s i).screen) : t.dirty = true := by
  cases i with
  | cls | drwVxVyN =>
    cases h
    rfl
  | _ => exact hscreen.elim

/-- Settles O43. No frame has a key in it; a step whose frame leaves the screen out leaves the flag as it was. -/
theorem stepKeepsKeysAndNeverClearsDirty : Obligations.StepKeepsKeysAndNeverClearsDirty := by
  unfold Obligations.StepKeepsKeysAndNeverClearsDirty
  intro s t hstep
  obtain ⟨i, -, hexec⟩ := exists_exec_of_step hstep
  have hframe := everyInstructionKeepsItsFrame i s t hexec
  refine ⟨hframe.keys, fun hdirty => ?_⟩
  by_cases hscreen : (mayChange s i).screen
  · exact dirty_of_exec_of_mayChange_screen hexec hscreen
  · obtain ⟨-, hsame⟩ := hframe.screen hscreen
    exact hsame.trans hdirty

/-! ### Keys, timers and the display (60_exceptions.md R163 to R165) -/

/-- The truncated subtraction of numbers stops at 0, as the count does. -/
theorem toNat_countDown (b : Byte) : (countDown b).toNat = b.toNat - 1 := by
  unfold countDown
  by_cases hzero : b = 0
  · rw [if_pos hzero, hzero]; rfl
  · rw [if_neg hzero]
    bv_omega

/-- Settles O57. A key write is read back at its own key only, and each timer is counted down. -/
theorem hostSetsKeysAndTimers : Obligations.HostSetsKeysAndTimers := by
  unfold Obligations.HostSetsKeysAndTimers
  intro s k b n
  refine ⟨⟨_, rfl, rfl, ?key, fun j hj => ?otherKeys⟩, rfl, rfl, rfl, rfl,
    ⟨_, rfl, rfl, toNat_countDown s.dt, toNat_countDown s.st⟩⟩
  case key => rw [State.keyDown_setKey, if_pos rfl]
  case otherKeys => rw [State.keyDown_setKey, if_neg hj]

/-- No transaction but Reset and Step writes a pixel. -/
theorem pixel_transact_of_ne {t : Transaction} (hreset : t ≠ .reset) (hstep : ∀ r, t ≠ .step r) (s : State)
    (px : Fin 64) (py : Fin 32) : (transact t s).1.pixel px py = s.pixel px py := by
  cases t with
  | reset => exact absurd rfl hreset
  | step r => exact absurd rfl (hstep r)
  | loadProgram bytes =>
    obtain hcopied | hrejected := s.loadProgram_cases bytes
    · rw [transact, hcopied, State.memWriteAll_pixel]
    · rw [transact, hrejected]
  | setKey | getDelay | getSound | setDelay | setSound | timerTick | readDisplay | clearDirty => rfl

/-- Settles O58. The display is answered as it is, and only Reset and Step can write it. -/
theorem hostReadsDisplayAndClearsDirty : Obligations.HostReadsDisplayAndClearsDirty := by
  unfold Obligations.HostReadsDisplayAndClearsDirty
  intro s
  exact ⟨⟨s.disp, rfl, fun _ _ => rfl⟩, rfl, fun _ hreset hstep => pixel_transact_of_ne hreset hstep s⟩

end Sys2Proof.Machine
